-- ==== Sys2Proof/Word.lean ====
section
/-!
DEFINITION. The word types of the CHIP-8 core. Every value is unsigned and bit 0 is the least significant bit
(00_scope.md R5); the hardware has no signed operation.
-/

namespace Sys2Proof

/-- An 8-bit value: a general register, a memory byte, a timer, the immediate `nn`. -/
abbrev Byte := BitVec 8

/-- A 16-bit value: an instruction word, `pc`, `I`, a stack entry. -/
abbrev Word := BitVec 16

/-- The 12-bit address field `nnn` (30_encoding.md R62, R63). -/
abbrev Addr := BitVec 12

/-- A register number, 0 to 15 (10_state.md R10: every 4-bit number names a register). -/
abbrev Reg := Fin 16

end Sys2Proof
end

