-- ==== Sys2Proof/Syntax.lean ====
section
/-!
DEFINITION. The instructions: one constructor per row of spec/opcode_table.json (30_encoding.md R66). The unknown
words of groups 8, E and F (R74) have no row and so no constructor; Decode rejects them by name and the instruction
step gives them their effect (log 6).
-/

namespace Sys2Proof

inductive Instr where
  /-- 0NNN, SYS addr: the unknown words of group 0 (R95). -/
  | sys (nnn : Addr)
  /-- 00E0, CLS (R171). -/
  | cls
  /-- 00EE, RET (R96). -/
  | ret
  /-- 1NNN, JP addr (R97). -/
  | jp (nnn : Addr)
  /-- 2NNN, CALL addr (R98). -/
  | call (nnn : Addr)
  /-- 3XNN, SE Vx, byte (R99). -/
  | seImm (x : Reg) (nn : Byte)
  /-- 4XNN, SNE Vx, byte (R100). -/
  | sneImm (x : Reg) (nn : Byte)
  /-- 5XY0, SE Vx, Vy (R101). -/
  | seReg (x y : Reg)
  /-- 6XNN, LD Vx, byte (R120). -/
  | ldImm (x : Reg) (nn : Byte)
  /-- 7XNN, ADD Vx, byte (R121). -/
  | addImm (x : Reg) (nn : Byte)
  /-- 8XY0, LD Vx, Vy (R122). -/
  | ldReg (x y : Reg)
  /-- 8XY1, OR Vx, Vy (R123). -/
  | orReg (x y : Reg)
  /-- 8XY2, AND Vx, Vy (R124). -/
  | andReg (x y : Reg)
  /-- 8XY3, XOR Vx, Vy (R125). -/
  | xorReg (x y : Reg)
  /-- 8XY4, ADD Vx, Vy (R127). -/
  | addReg (x y : Reg)
  /-- 8XY5, SUB Vx, Vy (R128). -/
  | subReg (x y : Reg)
  /-- 8XY6, SHR Vx (R129). -/
  | shr (x y : Reg)
  /-- 8XY7, SUBN Vx, Vy (R130). -/
  | subn (x y : Reg)
  /-- 8XYE, SHL Vx (R131). -/
  | shl (x y : Reg)
  /-- 9XY0, SNE Vx, Vy (R102). -/
  | sneReg (x y : Reg)
  /-- ANNN, LD I, addr (R150). -/
  | ldI (nnn : Addr)
  /-- BNNN, JP V0, addr (R103). -/
  | jpV0 (nnn : Addr)
  /-- CXNN, RND Vx, byte (R140). -/
  | rnd (x : Reg) (nn : Byte)
  /-- DXYN, DRW Vx, Vy, nibble (R172); `n` is the height, 0 to 15. -/
  | drw (x y : Reg) (n : Fin 16)
  /-- EX9E, SKP Vx (R186). -/
  | skp (x : Reg)
  /-- EXA1, SKNP Vx (R187). -/
  | sknp (x : Reg)
  /-- FX07, LD Vx, DT (R200). -/
  | ldVxDT (x : Reg)
  /-- FX0A, LD Vx, K (R188). -/
  | ldVxK (x : Reg)
  /-- FX15, LD DT, Vx (R201). -/
  | ldDTVx (x : Reg)
  /-- FX18, LD ST, Vx (R202). -/
  | ldSTVx (x : Reg)
  /-- FX1E, ADD I, Vx (R151). -/
  | addI (x : Reg)
  /-- FX29, LD F, Vx (R153). -/
  | ldF (x : Reg)
  /-- FX33, LD B, Vx (R154). -/
  | ldB (x : Reg)
  /-- FX55, LD [I], Vx (R155). -/
  | ldMemVx (x : Reg)
  /-- FX65, LD Vx, [I] (R156). -/
  | ldVxMem (x : Reg)
  deriving DecidableEq, Repr

end Sys2Proof
end

