-- ==== Sys2Proof/Decode.lean ====
section
/-!
DEFINITION. Decode, total on any bytes (30_encoding.md R60 to R67), and the encoder, written from the same formats
(R61, R80), with the opcode map's match and mask rows (R66).
-/

namespace Sys2Proof

/-- Why bytes are no instruction of the table. -/
inductive DecodeError where
  /-- Fewer than two bytes (R60: every instruction is two). -/
  | truncated
  /-- A word of groups 8, E or F that selects no row (R74). It is not an error of the machine: its effect is R94. -/
  | unknownOpcode (w : Word)
  deriving DecidableEq, Repr

/-- op = w[15:12] (R62). -/
def opField (w : Word) : Fin 16 := (w.extractLsb' 12 4).toFin
/-- x = w[11:8] (R62). -/
def xField (w : Word) : Reg := (w.extractLsb' 8 4).toFin
/-- y = w[7:4] (R62). -/
def yField (w : Word) : Reg := (w.extractLsb' 4 4).toFin
/-- n = w[3:0] (R62). -/
def nField (w : Word) : Fin 16 := (w.extractLsb' 0 4).toFin
/-- nn = sub = w[7:0] (R62). -/
def nnField (w : Word) : Byte := w.extractLsb' 0 8
/-- nnn = w[11:0] (R62). -/
def nnnField (w : Word) : Addr := w.extractLsb' 0 12

/-- Group 0: the low byte selects; bits 11:8 are ignored (R65, R75). What selects neither CLS nor RET is SYS (R66). -/
def decodeGroup0 (w : Word) : Except DecodeError Instr :=
  match (nnField w).toNat with
  | 0xE0 => .ok .cls
  | 0xEE => .ok .ret
  | _ => .ok (.sys (nnnField w))

/-- Group 8: the low nibble selects (R65). -/
def decodeGroup8 (w : Word) : Except DecodeError Instr :=
  match (nField w).val with
  | 0x0 => .ok (.ldReg (xField w) (yField w))
  | 0x1 => .ok (.orReg (xField w) (yField w))
  | 0x2 => .ok (.andReg (xField w) (yField w))
  | 0x3 => .ok (.xorReg (xField w) (yField w))
  | 0x4 => .ok (.addReg (xField w) (yField w))
  | 0x5 => .ok (.subReg (xField w) (yField w))
  | 0x6 => .ok (.shr (xField w) (yField w))
  | 0x7 => .ok (.subn (xField w) (yField w))
  | 0xE => .ok (.shl (xField w) (yField w))
  | _ => .error (.unknownOpcode w)

/-- Group E: the low byte selects (R65). -/
def decodeGroupE (w : Word) : Except DecodeError Instr :=
  match (nnField w).toNat with
  | 0x9E => .ok (.skp (xField w))
  | 0xA1 => .ok (.sknp (xField w))
  | _ => .error (.unknownOpcode w)

/-- Group F: the low byte selects (R65). -/
def decodeGroupF (w : Word) : Except DecodeError Instr :=
  match (nnField w).toNat with
  | 0x07 => .ok (.ldVxDT (xField w))
  | 0x0A => .ok (.ldVxK (xField w))
  | 0x15 => .ok (.ldDTVx (xField w))
  | 0x18 => .ok (.ldSTVx (xField w))
  | 0x1E => .ok (.addI (xField w))
  | 0x29 => .ok (.ldF (xField w))
  | 0x33 => .ok (.ldB (xField w))
  | 0x55 => .ok (.ldMemVx (xField w))
  | 0x65 => .ok (.ldVxMem (xField w))
  | _ => .error (.unknownOpcode w)

/-- Decode one instruction word (R64, R65, R67). Groups 5 and 9 ignore the low nibble (R75).
op is below 16, so the last arm is group F. -/
def decode (w : Word) : Except DecodeError Instr :=
  match (opField w).val with
  | 0x0 => decodeGroup0 w
  | 0x1 => .ok (.jp (nnnField w))
  | 0x2 => .ok (.call (nnnField w))
  | 0x3 => .ok (.seImm (xField w) (nnField w))
  | 0x4 => .ok (.sneImm (xField w) (nnField w))
  | 0x5 => .ok (.seReg (xField w) (yField w))
  | 0x6 => .ok (.ldImm (xField w) (nnField w))
  | 0x7 => .ok (.addImm (xField w) (nnField w))
  | 0x8 => decodeGroup8 w
  | 0x9 => .ok (.sneReg (xField w) (yField w))
  | 0xA => .ok (.ldI (nnnField w))
  | 0xB => .ok (.jpV0 (nnnField w))
  | 0xC => .ok (.rnd (xField w) (nnField w))
  | 0xD => .ok (.drw (xField w) (yField w) (nField w))
  | 0xE => decodeGroupE w
  | _ => decodeGroupF w

/-- The instruction word of two bytes, high byte first (20_memory.md R42). -/
def wordOfBytes (hi lo : Byte) : Word := hi ++ lo

/-- The high byte of a word, the one at the lower address (R42). -/
def highByte (w : Word) : Byte := w.extractLsb' 8 8

/-- The low byte of a word (R42). -/
def lowByte (w : Word) : Byte := w.extractLsb' 0 8

/-- Decode the instruction at the head of a byte list; the rest of the list follows it (R60). -/
def decodeBytes : List Byte → Except DecodeError (Instr × List Byte)
  | hi :: lo :: rest =>
    match decode (wordOfBytes hi lo) with
    | .ok i => .ok (i, rest)
    | .error e => .error e
  | _ => .error .truncated

/-- Format A: op, nnn (R61). -/
def wordA (op : BitVec 4) (nnn : Addr) : Word := op ++ nnn

/-- Formats XB and XS: op, x, a byte (R61). -/
def wordXB (op : BitVec 4) (x : Reg) (nn : Byte) : Word := op ++ ((BitVec.ofFin x : BitVec 4) ++ nn)

/-- Format XY: op, x, y, n (R61). -/
def wordXY (op : BitVec 4) (x y : Reg) (n : Fin 16) : Word :=
  op ++ ((BitVec.ofFin x : BitVec 4) ++ ((BitVec.ofFin y : BitVec 4) ++ (BitVec.ofFin n : BitVec 4)))

/-- The canonical word of an instruction (R61, R66, R75, R80). -/
def encode : Instr → Word
  | .sys nnn => wordA 0x0 nnn
  | .cls => 0x00E0
  | .ret => 0x00EE
  | .jp nnn => wordA 0x1 nnn
  | .call nnn => wordA 0x2 nnn
  | .seImm x nn => wordXB 0x3 x nn
  | .sneImm x nn => wordXB 0x4 x nn
  | .seReg x y => wordXY 0x5 x y 0x0
  | .ldImm x nn => wordXB 0x6 x nn
  | .addImm x nn => wordXB 0x7 x nn
  | .ldReg x y => wordXY 0x8 x y 0x0
  | .orReg x y => wordXY 0x8 x y 0x1
  | .andReg x y => wordXY 0x8 x y 0x2
  | .xorReg x y => wordXY 0x8 x y 0x3
  | .addReg x y => wordXY 0x8 x y 0x4
  | .subReg x y => wordXY 0x8 x y 0x5
  | .shr x y => wordXY 0x8 x y 0x6
  | .subn x y => wordXY 0x8 x y 0x7
  | .shl x y => wordXY 0x8 x y 0xE
  | .sneReg x y => wordXY 0x9 x y 0x0
  | .ldI nnn => wordA 0xA nnn
  | .jpV0 nnn => wordA 0xB nnn
  | .rnd x nn => wordXB 0xC x nn
  | .drw x y n => wordXY 0xD x y n
  | .skp x => wordXB 0xE x 0x9E
  | .sknp x => wordXB 0xE x 0xA1
  | .ldVxDT x => wordXB 0xF x 0x07
  | .ldVxK x => wordXB 0xF x 0x0A
  | .ldDTVx x => wordXB 0xF x 0x15
  | .ldSTVx x => wordXB 0xF x 0x18
  | .addI x => wordXB 0xF x 0x1E
  | .ldF x => wordXB 0xF x 0x29
  | .ldB x => wordXB 0xF x 0x33
  | .ldMemVx x => wordXB 0xF x 0x55
  | .ldVxMem x => wordXB 0xF x 0x65

/-- The two bytes of an instruction in memory order (R42, R60). -/
def encodeBytes (i : Instr) : List Byte := [highByte (encode i), lowByte (encode i)]

/-- A row of the opcode map: a word is the row's when its masked bits are the match (R66). -/
structure OpcodeRow where
  pattern : Word
  mask : Word
  deriving DecidableEq, Repr

/-- A word has the bits a row fixes (R66). -/
abbrev OpcodeRow.Matches (r : OpcodeRow) (w : Word) : Prop := w &&& r.mask = r.pattern

/-- The opcode map's row of an instruction, copied from R66 (not used by decode or encode: a second reading of the
map to hold them against). -/
def Instr.row : Instr → OpcodeRow
  | .sys _ => ⟨0x0000, 0xF000⟩
  | .cls => ⟨0x00E0, 0xF0FF⟩
  | .ret => ⟨0x00EE, 0xF0FF⟩
  | .jp _ => ⟨0x1000, 0xF000⟩
  | .call _ => ⟨0x2000, 0xF000⟩
  | .seImm _ _ => ⟨0x3000, 0xF000⟩
  | .sneImm _ _ => ⟨0x4000, 0xF000⟩
  | .seReg _ _ => ⟨0x5000, 0xF000⟩
  | .ldImm _ _ => ⟨0x6000, 0xF000⟩
  | .addImm _ _ => ⟨0x7000, 0xF000⟩
  | .ldReg _ _ => ⟨0x8000, 0xF00F⟩
  | .orReg _ _ => ⟨0x8001, 0xF00F⟩
  | .andReg _ _ => ⟨0x8002, 0xF00F⟩
  | .xorReg _ _ => ⟨0x8003, 0xF00F⟩
  | .addReg _ _ => ⟨0x8004, 0xF00F⟩
  | .subReg _ _ => ⟨0x8005, 0xF00F⟩
  | .shr _ _ => ⟨0x8006, 0xF00F⟩
  | .subn _ _ => ⟨0x8007, 0xF00F⟩
  | .shl _ _ => ⟨0x800E, 0xF00F⟩
  | .sneReg _ _ => ⟨0x9000, 0xF000⟩
  | .ldI _ => ⟨0xA000, 0xF000⟩
  | .jpV0 _ => ⟨0xB000, 0xF000⟩
  | .rnd _ _ => ⟨0xC000, 0xF000⟩
  | .drw _ _ _ => ⟨0xD000, 0xF000⟩
  | .skp _ => ⟨0xE09E, 0xF0FF⟩
  | .sknp _ => ⟨0xE0A1, 0xF0FF⟩
  | .ldVxDT _ => ⟨0xF007, 0xF0FF⟩
  | .ldVxK _ => ⟨0xF00A, 0xF0FF⟩
  | .ldDTVx _ => ⟨0xF015, 0xF0FF⟩
  | .ldSTVx _ => ⟨0xF018, 0xF0FF⟩
  | .addI _ => ⟨0xF01E, 0xF0FF⟩
  | .ldF _ => ⟨0xF029, 0xF0FF⟩
  | .ldB _ => ⟨0xF033, 0xF0FF⟩
  | .ldMemVx _ => ⟨0xF055, 0xF0FF⟩
  | .ldVxMem _ => ⟨0xF065, 0xF0FF⟩

/-- The bytes of the word whose bits are w, as memory holds them: one 16-bit word, high byte first (R42, R60). -/
def tableWordBytes (nbits w : Nat) : List Byte :=
  [highByte (BitVec.ofNat 16 (w % 2 ^ nbits)), lowByte (BitVec.ofNat 16 (w % 2 ^ nbits))]

/-- The instruction the decoder reads from the word with bits w; none where it refuses, or where the word is longer
than the 16 bits every instruction has (R60). -/
def decodeTableWord (nbits w : Nat) : Option Instr :=
  if nbits ≤ 16 then
    match decodeBytes (tableWordBytes nbits w) with
    | .ok (i, _) => some i
    | .error _ => none
  else none

end Sys2Proof
end

