-- ==== Sys2Proof/Config.lean ====
section
/-!
DEFINITION. What an implementation fixes: the parameters of 00_scope.md R3 and R4, and the free values. A parameter
with a decided value is a constant with that value; the shared operations take it as an argument and have both
branches where the spec writes both (log 7). An OPEN parameter or a free value is an opaque constant: no proof can
see what it is.
-/

namespace Sys2Proof

/-- MEM_SIZE, in bytes (R3). -/
@[simp] def Config.memSize : Nat := 4096

/-- PROG_BASE, where a program is loaded (R3). -/
@[simp] def Config.progBase : Nat := 0x200

/-- PC_RESET (R3). -/
@[simp] def Config.pcReset : Word := 0x200

/-- TIMER_HZ, the fixed rate of the timer gate (R3, 70_reset_and_hazards.md R267). -/
@[simp] def Config.timerHz : Nat := 60

/-- STACK_DEPTH, decided value 16 (R4, D5). -/
@[simp] def Config.stackDepth : Nat := 16

/-- FONT_BASE, decided value 0 (R4, D3). -/
@[simp] def Config.fontBase : Nat := 0

/-- SHL_FLAG_NORMALISED, the source's value (R4; 90_conflicts.md C4). -/
@[simp] def Config.shlFlagNormalised : Bool := false

/-- SHIFT_USES_VY, decided value (R4, D9). -/
@[simp] def Config.shiftUsesVy : Bool := false

/-- LOGIC_RESETS_VF, decided value (R4, D10). -/
@[simp] def Config.logicResetsVf : Bool := false

/-- LOADSTORE_INCREMENTS_I, decided value (R4, D12). -/
@[simp] def Config.loadStoreIncrementsI : Bool := false

/-- DEFAULT_RATE: OPEN (R4, D31; log 5). -/
opaque Config.defaultRate : Nat

/-- RATE_STEP less one: OPEN, and RATE_STEP is a positive number (R4, D31; log 5). -/
opaque Config.rateStepPred : Nat

/-- RATE_STEP: OPEN, positive (R4, D31; 92_eei_decisions.md, open parameters; log 5). -/
def Config.rateStep : Nat := Config.rateStepPred + 1

/-- RATE_MAX: OPEN, a number or none (R4, D31; log 5). -/
opaque Config.rateMax : Option Nat

/-- draw8(): the byte of the n-th draw, a free value under no law (41_load_arith.md R140, D18; log 4). -/
opaque Config.drawByte : Nat → Byte

end Sys2Proof
end

