-- ==== Sys2Proof/Machine/State.lean ====
section
/-!
DEFINITION. The state of the CHIP-8 core (10_state.md), the host's operations and the block's outputs
(60_exceptions.md R231), the reasons a step can stop, and the state after reset (70_reset_and_hazards.md R250).
-/

namespace Sys2Proof.Machine

/-- The value of FAULT (10_state.md R25; 60_exceptions.md R211). -/
inductive FaultCode where
  /-- 0: no fault recorded. -/
  | none
  /-- 1: ProgramCounterOutOfRange, raised by the fetch. -/
  | programCounterOutOfRange
  /-- 2: StackUnderflow, raised by RET. -/
  | stackUnderflow
  /-- 3: StackOverflow, raised by CALL. -/
  | stackOverflow
  /-- 4: MemoryOutOfRange, raised by DRW, LD B, LD [I] and LD Vx,[I]. -/
  | memoryOutOfRange
  deriving DecidableEq, Repr

/-- The display buffer: 32 rows, top to bottom, of 64 pixels, left to right; true = lit (R19). -/
abbrev Display := Vector (Vector Bool 64) 32

/-- Main memory as data: the cells that differ from the reset contents (`initialByte`), addresses rising (log 8). -/
abbrev Memory := List Host.Cell

/-- What the host may do to the block (60_exceptions.md R231). -/
inductive HostOp where
  /-- One instruction strobe (R90). -/
  | instrStrobe
  /-- One timer strobe (R222). -/
  | timerStrobe
  /-- setKeyState(key, pressed) (44_keypad.md R195). -/
  | keyEvent (key : Nat) (pressed : Bool)
  /-- The host takes a frame if there is a changed one (R232). -/
  | renderConsume
  /-- increaseRate() (R234; 70_reset_and_hazards.md R268). -/
  | increaseRate
  /-- decreaseRate() (R234; 70_reset_and_hazards.md R268). -/
  | decreaseRate
  /-- Reset (70_reset_and_hazards.md R250). -/
  | reset
  /-- Load of a program blob (70_reset_and_hazards.md R254). -/
  | load (blob : List Byte)
  /-- One cycle() call at wall-clock time `now`, in milliseconds (70_reset_and_hazards.md R265). -/
  | cycle (now : Nat)
  deriving DecidableEq, Repr

/-- What the block sends to the host (60_exceptions.md R231). -/
inductive Output where
  /-- beep_accumulate (R222, R233). -/
  | beepAccumulate
  /-- beep_flush (R222, R233). -/
  | beepFlush
  /-- frame(DISP) (R232). -/
  | frame (disp : Display)
  /-- fault(code, a, info) (R213). -/
  | fault (code : FaultCode) (addr info : Word)
  /-- UnknownOpcode(w, a) (R219). -/
  | unknownOpcode (w a : Word)
  /-- A load answered Ok (70_reset_and_hazards.md R254). -/
  | loadOk
  /-- A load answered LoadError (70_reset_and_hazards.md R254; R238). -/
  | loadError
  deriving DecidableEq, Repr

/-- A step that stops with a fault: nothing of this hardware does. Every fatal fault of the spec is entered as a next
state (60_exceptions.md R213), an unknown opcode goes on (R94), and an instruction strobe that is not enabled changes
nothing (40_fetch_and_control.md R90; log 6). -/
inductive Fault where
  deriving DecidableEq, Repr

/-- A step that is refused. -/
inductive Refusal where
  /-- Raised by an arm of exec whose instruction has no meaning yet; no arm raises it. Safe. -/
  | notModelled (mnemonic : String)
  deriving DecidableEq, Repr

structure State where
  /-- V0 to VF (R10, R11). -/
  v : Vector Byte 16
  /-- I, the index register (R12). -/
  i : Word
  /-- The program counter (R13 to R15). -/
  pc : Word
  /-- The call stack, most recent return address first; SP is its length (R16; log 9). -/
  stack : List Word
  /-- Main memory (R18; log 8). -/
  mem : Memory
  /-- DISP (R19). -/
  disp : Display
  /-- CHANGED (R20). -/
  changed : Bool
  /-- KEYS (R21). -/
  keys : Vector Bool 16
  /-- WAITING (R22). -/
  waiting : Bool
  /-- WAIT_REG, which has a meaning only while WAITING (R22; log 3). -/
  waitReg : Reg
  /-- DT (R23). -/
  dt : Byte
  /-- ST (R24). -/
  st : Byte
  /-- HALTED (R25). -/
  halted : Bool
  /-- FAULT (R25). -/
  fault : FaultCode
  /-- FAULT_ADDR (R25; log 3). -/
  faultAddr : Word
  /-- FAULT_INFO (R25; log 3). -/
  faultInfo : Word
  /-- RATE, of the gate: instructions per second (R29). -/
  rate : Nat
  /-- T_INSTR, of the gate: milliseconds (R29; log 3). -/
  tInstr : Nat
  /-- T_TIMER, of the gate: milliseconds (R29; log 3). -/
  tTimer : Nat
  /-- The model's own: how many bytes RND has drawn (41_load_arith.md R140; log 4). -/
  draws : Nat
  /-- The model's own: the host operations still to come, the next one first; when there is none the host issues
  instruction strobes (60_exceptions.md R231, 70_reset_and_hazards.md R262; log 1). -/
  schedule : List HostOp
  /-- The model's own: what the block has sent to the host, newest first (60_exceptions.md R231; log 2). -/
  outputs : List Output
  deriving DecidableEq, Repr

/-- A buffer with every pixel 0. -/
def Display.blank : Display := Vector.replicate 32 (Vector.replicate 64 false)

/-- The machine right after reset (70_reset_and_hazards.md R250). WAIT_REG, FAULT_ADDR, FAULT_INFO and the gate's
timestamps have no value in the spec (log 3); the last three fields are the model's own. -/
def State.reset : State where
  v := Vector.replicate 16 0
  i := 0
  pc := Config.pcReset
  stack := []
  mem := []
  disp := Display.blank
  changed := false
  keys := Vector.replicate 16 false
  waiting := false
  waitReg := 0
  dt := 0
  st := 0
  halted := false
  fault := .none
  faultAddr := 0
  faultInfo := 0
  rate := Config.defaultRate
  tInstr := 0
  tTimer := 0
  draws := 0
  schedule := []
  outputs := []

/-- What a step or a meaning answers. -/
abbrev Result := Host.Outcome State Fault Refusal

end Sys2Proof.Machine
end

