-- ==== Sys2Proof/Machine/Ops.lean ====
section
/-!
DEFINITION. The named operations over registers, memory, the call stack, the display, the keys and the outputs, and
entering a fault. Everything a meaning does goes through them.
-/

namespace Sys2Proof.Machine

/-! ### General registers (10_state.md R10) -/

/-- V[x]. -/
def State.getV (s : State) (x : Reg) : Byte := s.v[x.val]

/-- V[x] <- b. -/
def State.setV (s : State) (x : Reg) (b : Byte) : State := { s with v := s.v.set x.val b x.isLt }

/-- FLAG_REG: VF is V[15] (R11). -/
abbrev flagReg : Reg := 15

/-- The result first, then the flag, so that the flag is what remains when the result register is VF (00_scope.md R7). -/
def State.setResultThenFlag (s : State) (x : Reg) (result flag : Byte) : State :=
  (s.setV x result).setV flagReg flag

/-! ### Memory (20_memory.md) -/

/-- FONT_DATA: the glyphs of the digits 0 to F, five bytes each (20_memory.md R47). -/
def fontData : List Byte :=
  [0xF0, 0x90, 0x90, 0x90, 0xF0] ++ [0x20, 0x60, 0x20, 0x20, 0x70] ++
  [0xF0, 0x10, 0xF0, 0x80, 0xF0] ++ [0xF0, 0x10, 0xF0, 0x10, 0xF0] ++
  [0x90, 0x90, 0xF0, 0x10, 0x10] ++ [0xF0, 0x80, 0xF0, 0x10, 0xF0] ++
  [0xF0, 0x80, 0xF0, 0x90, 0xF0] ++ [0xF0, 0x10, 0x20, 0x40, 0x40] ++
  [0xF0, 0x90, 0xF0, 0x90, 0xF0] ++ [0xF0, 0x90, 0xF0, 0x10, 0xF0] ++
  [0xF0, 0x90, 0xF0, 0x90, 0x90] ++ [0xE0, 0x90, 0xE0, 0x90, 0xE0] ++
  [0xF0, 0x80, 0x80, 0x80, 0xF0] ++ [0xE0, 0x90, 0x90, 0x90, 0xE0] ++
  [0xF0, 0x80, 0xF0, 0x80, 0xF0] ++ [0xF0, 0x80, 0xF0, 0x80, 0x80]

/-- What an address holds after reset, and so what an unlisted address reads as: the font at FONT_BASE, 0x00
elsewhere (10_state.md R18, 20_memory.md R41, R47). -/
def initialByte (a : Nat) : Byte :=
  if a < Config.fontBase then 0 else fontData.getD (a - Config.fontBase) 0

/-- The byte at address a: the listed one, else the reset contents. -/
def Memory.read : Memory → Nat → Byte
  | [], a => initialByte a
  | (b, u) :: rest, a => if b = a then u else Memory.read rest a

/-- Memory with the byte v at address a, in the canonical form: a byte equal to the reset contents is not listed. -/
def Memory.write : Memory → Nat → Byte → Memory
  | [], a, v => if v = initialByte a then [] else [(a, v)]
  | (b, u) :: rest, a, v =>
    if a < b then
      if v = initialByte a then (b, u) :: rest else (a, v) :: (b, u) :: rest
    else if a = b then
      if v = initialByte a then rest else (a, v) :: rest
    else (b, u) :: Memory.write rest a v

/-- The canonical form: addresses strictly rising, each inside memory, no byte equal to the reset contents. -/
abbrev Memory.wf (m : Memory) : Prop :=
  m.Pairwise (fun c d => c.1 < d.1) ∧ ∀ c ∈ m, c.1 < Config.memSize ∧ c.2 ≠ initialByte c.1

/-- MEM[a] (00_scope.md R6). Every use follows a range check. -/
def State.readByte (s : State) (a : Nat) : Byte := s.mem.read a

/-- MEM[a] <- b (R6). Every use follows a range check. -/
def State.writeByte (s : State) (a : Nat) (b : Byte) : State := { s with mem := s.mem.write a b }

/-- The n bytes from base upward (20_memory.md R43). -/
def State.readBytes (s : State) (base n : Nat) : List Byte :=
  (List.range n).map (fun k => s.readByte (base + k))

/-- Memory with the bytes of a list stored from base upward (20_memory.md R43). -/
def Memory.writeBytes : Memory → Nat → List Byte → Memory
  | m, _, [] => m
  | m, base, b :: bs => (m.write base b).writeBytes (base + 1) bs

/-- The bytes stored from base upward (20_memory.md R43). -/
def State.writeBytes (s : State) (base : Nat) (bs : List Byte) : State :=
  { s with mem := s.mem.writeBytes base bs }

/-! ### Faults (60_exceptions.md) -/

/-- The three bits of FAULT (R211). -/
def FaultCode.code : FaultCode → BitVec 3
  | .none => 0
  | .programCounterOutOfRange => 1
  | .stackUnderflow => 2
  | .stackOverflow => 3
  | .memoryOutOfRange => 4

/-- A fault a step raises: its code and its word of information (R211). -/
structure Trap where
  code : FaultCode
  info : Word
  deriving DecidableEq, Repr

/-- Emit an event to the host (R231). -/
def State.emit (s : State) (o : Output) : State := { s with outputs := o :: s.outputs }

/-- Fault entry: `raise F(info)` at the instruction address a (R213). pc is left as it is. There is no return from a
fault (R215): only reset, or a load that resets, clears HALTED. -/
def raise (a : Word) (t : Trap) (s : State) : State :=
  { s with
    halted := true
    fault := t.code
    faultAddr := a
    faultInfo := t.info
    outputs := .fault t.code a t.info :: s.outputs }

/-- The address a of the executing instruction: pc is already a + 2 (40_fetch_and_control.md R92). -/
def State.instrAddr (s : State) : Word := s.pc - 2

/-- An instruction either makes all its writes or raises its fault and makes none (R93, R213). -/
def State.complete (s : State) : Except Trap State → Result
  | .ok t => .next t
  | .error trap => .next (raise s.instrAddr trap s)

/-- CheckRange(base, count): any byte outside memory is a fault, with the first such address (20_memory.md R45). -/
def checkRange (base : Word) (count : Nat) : Except Trap Unit :=
  if 0 < count ∧ base.toNat + count - 1 > Config.memSize - 1 then
    .error ⟨.memoryOutOfRange, BitVec.ofNat 16 (max base.toNat Config.memSize)⟩
  else .ok ()

/-! ### Call stack (10_state.md R17) -/

/-- push(a). -/
def State.push (s : State) (a : Word) : Except Trap State :=
  if s.stack.length < Config.stackDepth then .ok { s with stack := a :: s.stack }
  else .error ⟨.stackOverflow, a⟩

/-- pop(). -/
def State.pop (s : State) : Except Trap (Word × State) :=
  match s.stack with
  | [] => .error ⟨.stackUnderflow, 0⟩
  | a :: rest => .ok (a, { s with stack := rest })

/-! ### Program counter (10_state.md R14, R15) -/

/-- pc <- target. -/
def State.jump (s : State) (target : Word) : State := { s with pc := target }

/-- The skip: pc <- pc + 2, modulo 65536, when the condition holds (R14). -/
def State.skipIf (s : State) (c : Bool) : State := { s with pc := if c then s.pc + 2 else s.pc }

/-! ### Index register -/

/-- I <- a (R12). -/
def State.setI (s : State) (a : Word) : State := { s with i := a }

/-! ### Several registers at once (42_index_memory.md R155, R156) -/

/-- V[0], ..., V[x], lowest first. -/
def State.regsUpTo (s : State) (x : Reg) : List Byte :=
  (List.range (x.val + 1)).map (fun k => s.getV (Fin.ofNat 16 k))

/-- Registers k, k+1, ... of the file set to the bytes of the list. -/
def setFrom : Vector Byte 16 → Nat → List Byte → Vector Byte 16
  | v, _, [] => v
  | v, k, b :: bs => setFrom (v.set (Fin.ofNat 16 k).val b (Fin.ofNat 16 k).isLt) (k + 1) bs

/-- V[0], V[1], ... <- the bytes of the list. -/
def State.setRegs (s : State) (bs : List Byte) : State := { s with v := setFrom s.v 0 bs }

/-! ### Display (10_state.md R19, 43_display.md) -/

/-- A pixel's place: row, column. -/
abbrev Place := Fin 32 × Fin 64

/-- DISP[y][x]. -/
def Display.pixel (d : Display) (p : Place) : Bool := d[p.1.val][p.2.val]

/-- DISP[y][x] <- DISP[y][x] ^ 1. -/
def Display.flip (d : Display) (p : Place) : Display :=
  d.set p.1.val (d[p.1.val].set p.2.val (!(d.pixel p)) p.2.isLt) p.1.isLt

/-- Flip the places of a list, one after the other; `hit` is whether one of them was lit when flipped (R172). -/
def Display.blit (d : Display) (hit : Bool) : List Place → Display × Bool
  | [] => (d, hit)
  | p :: ps => (d.flip p).blit (hit || d.pixel p) ps

/-! ### Keys (10_state.md R21) -/

/-- KEYS[k]. -/
def State.key (s : State) (k : Fin 16) : Bool := s.keys[k.val]

/-- KEYS[k] <- b. -/
def State.setKey (s : State) (k : Fin 16) (b : Bool) : State := { s with keys := s.keys.set k.val b k.isLt }

/-! ### Enable and reset -/

/-- An instruction step is enabled exactly when HALTED = 0 and WAITING = 0 (10_state.md R31). -/
def State.enabled (s : State) : Bool := !s.halted && !s.waiting

/-- Reset (70_reset_and_hazards.md R250): every element of the block and of the gate as State.reset has it. The
model's own fields stay: what the host did and saw is not undone. -/
def State.doReset (s : State) : State :=
  { State.reset with draws := s.draws, schedule := s.schedule, outputs := s.outputs }

end Sys2Proof.Machine
end

