-- ==== Sys2Proof/Machine/Flags.lean ====
section
/-!
DEFINITION. The values written to VF (10_state.md R26) and the 8-bit results they come with (41_load_arith.md R126).
There are no other flags.
-/

namespace Sys2Proof.Machine

/-- A bit as a flag value, 0x00 or 0x01. -/
def flagOf (c : Bool) : Byte := if c then 1 else 0

/-- ADD: 1 when the exact sum passes 255 (R127). -/
def carryFlag (a b : Byte) : Byte := flagOf (decide (a.toNat + b.toNat > 255))

/-- SUB and SUBN: 1 when there is no borrow, minuend >= subtrahend (R128, R130). -/
def noBorrowFlag (minuend subtrahend : Byte) : Byte := flagOf (decide (minuend.toNat ≥ subtrahend.toNat))

/-- SHR: the bit shifted out, bit 0 (R129). -/
def shrFlag (a : Byte) : Byte := flagOf (a.getLsbD 0)

/-- SHL: bit 7 in its place, 0x00 or 0x80; or 0 or 1 when SHL_FLAG_NORMALISED (R131). -/
def shlFlag (normalised : Bool) (a : Byte) : Byte :=
  if normalised then flagOf (a.getLsbD 7) else a &&& 0x80

/-- OR, AND, XOR: VF is left alone, or cleared last when LOGIC_RESETS_VF (R123 to R125, 00_scope.md R4). -/
def State.setLogicResult (s : State) (resetsVf : Bool) (x : Reg) (result : Byte) : State :=
  if resetsVf then s.setResultThenFlag x result 0 else s.setV x result

end Sys2Proof.Machine
end

