-- ==== Sys2Proof/Machine/Operands.lean ====
section
/-!
DEFINITION. The operand forms: which key, digit or register an operand names, effective addresses, and the places a
sprite's 1 bits fall on.
-/

namespace Sys2Proof.Machine

/-- zext_16(nnn) (30_encoding.md R63). -/
def addrOperand (nnn : Addr) : Word := nnn.setWidth 16

/-- zext_16 of a register's byte (40_fetch_and_control.md R103, 42_index_memory.md R151). -/
def wordOperand (b : Byte) : Word := b.setWidth 16

/-- The low nibble of a byte, as a number 0 to 15. -/
def lowNibble (b : Byte) : Fin 16 := (b.extractLsb' 0 4).toFin

/-- The key a register value names: KEY_INDEX_POLICY = mask_low_nibble (44_keypad.md R186, R187, D16). -/
def keyIndex (b : Byte) : Fin 16 := lowNibble b

/-- The font digit a register value names: FONT_INDEX_POLICY = mask_low_nibble (42_index_memory.md R153, D13). -/
def fontDigit (b : Byte) : Fin 16 := lowNibble b

/-- FONT_BASE + 5 * d, computed, never looked up (42_index_memory.md R153, 20_memory.md R48). -/
def glyphAddr (d : Fin 16) : Word := BitVec.ofNat 16 (Config.fontBase + 5 * d.val)

/-- The register SHR and SHL shift: V[x], or V[y] when SHIFT_USES_VY (41_load_arith.md R129, R131). -/
def shiftOperand (usesVy : Bool) (s : State) (x y : Reg) : Byte := if usesVy then s.getV y else s.getV x

/-- I after a register save or restore up to V[x]: unchanged, or I + x + 1 when LOADSTORE_INCREMENTS_I
(42_index_memory.md R152, R155, R156). -/
def indexAfter (increments : Bool) (base : Word) (x : Reg) : Word :=
  if increments then base + BitVec.ofNat 16 (x.val + 1) else base

/-- The hundreds, tens and ones digits of a byte (42_index_memory.md R154). -/
def bcdDigits (a : Byte) : List Byte :=
  [BitVec.ofNat 8 (a.toNat / 100), BitVec.ofNat 8 (a.toNat / 10 % 10), BitVec.ofNat 8 (a.toNat % 10)]

/-- The place of column c of row r of a sprite at (vx, vy): each pixel wraps, column modulo 64 and row modulo 32
(DRAW_POLICY = wrap_each_pixel; 43_display.md R172, D14). -/
def spritePlace (vx vy : Byte) (r c : Nat) : Place := (Fin.ofNat 32 (vy.toNat + r), Fin.ofNat 64 (vx.toNat + c))

/-- Where the 1 bits of one sprite row fall, leftmost first; bit 7 is the leftmost pixel (R172). -/
def rowPlaces (vx vy : Byte) (r : Nat) (row : Byte) : List Place :=
  ((List.range 8).filter (fun c => row.getLsbD (7 - c))).map (spritePlace vx vy r)

/-- Where the 1 bits of a sprite fall, from its row r downward (R172). -/
def spritePlaces (vx vy : Byte) : Nat → List Byte → List Place
  | _, [] => []
  | r, row :: rows => rowPlaces vx vy r row ++ spritePlaces vx vy (r + 1) rows

end Sys2Proof.Machine
end

