-- ==== Sys2Proof/Machine/Arith.lean ====
section
/-!
DEFINITION. Register load, arithmetic, logic, shift and random (41_load_arith.md R120 to R141). None raises a fault.
-/

namespace Sys2Proof.Machine

/-- LD Vx, byte (R120). -/
def execLdImm (x : Reg) (nn : Byte) (s : State) : Result := .next (s.setV x nn)

/-- ADD Vx, byte: no flag (R121). -/
def execAddImm (x : Reg) (nn : Byte) (s : State) : Result := .next (s.setV x (s.getV x + nn))

/-- LD Vx, Vy (R122). -/
def execLdReg (x y : Reg) (s : State) : Result := .next (s.setV x (s.getV y))

/-- OR Vx, Vy (R123). -/
def execOrReg (x y : Reg) (s : State) : Result :=
  .next (s.setLogicResult Config.logicResetsVf x (s.getV x ||| s.getV y))

/-- AND Vx, Vy (R124). -/
def execAndReg (x y : Reg) (s : State) : Result :=
  .next (s.setLogicResult Config.logicResetsVf x (s.getV x &&& s.getV y))

/-- XOR Vx, Vy (R125). -/
def execXorReg (x y : Reg) (s : State) : Result :=
  .next (s.setLogicResult Config.logicResetsVf x (s.getV x ^^^ s.getV y))

/-- ADD Vx, Vy (R127). -/
def execAddReg (x y : Reg) (s : State) : Result :=
  .next (s.setResultThenFlag x (s.getV x + s.getV y) (carryFlag (s.getV x) (s.getV y)))

/-- SUB Vx, Vy (R128). -/
def execSubReg (x y : Reg) (s : State) : Result :=
  .next (s.setResultThenFlag x (s.getV x - s.getV y) (noBorrowFlag (s.getV x) (s.getV y)))

/-- SHR under either setting of SHIFT_USES_VY (R129). -/
def State.shiftRight (s : State) (usesVy : Bool) (x y : Reg) : State :=
  s.setResultThenFlag x (shiftOperand usesVy s x y >>> 1) (shrFlag (shiftOperand usesVy s x y))

/-- SHR Vx {, Vy} (R129). -/
def execShr (x y : Reg) (s : State) : Result := .next (s.shiftRight Config.shiftUsesVy x y)

/-- SUBN Vx, Vy (R130). -/
def execSubn (x y : Reg) (s : State) : Result :=
  .next (s.setResultThenFlag x (s.getV y - s.getV x) (noBorrowFlag (s.getV y) (s.getV x)))

/-- SHL under either setting of SHIFT_USES_VY and SHL_FLAG_NORMALISED (R131). -/
def State.shiftLeft (s : State) (usesVy normalised : Bool) (x y : Reg) : State :=
  s.setResultThenFlag x (shiftOperand usesVy s x y <<< 1) (shlFlag normalised (shiftOperand usesVy s x y))

/-- SHL Vx {, Vy} (R131). -/
def execShl (x y : Reg) (s : State) : Result :=
  .next (s.shiftLeft Config.shiftUsesVy Config.shlFlagNormalised x y)

/-- One more byte drawn: the next draw is a fresh one (R140). -/
def State.countDraw (s : State) : State := { s with draws := s.draws + 1 }

/-- RND Vx, byte: the byte drawn is a free value, a fresh one at every draw (R140; log 4). -/
def execRnd (x : Reg) (nn : Byte) (s : State) : Result :=
  .next (s.countDraw.setV x (Config.drawByte s.draws &&& nn))

end Sys2Proof.Machine
end

