-- ==== Sys2Proof/Machine/Control.lean ====
section
/-!
DEFINITION. The control-transfer family and the unknown opcode (40_fetch_and_control.md R94 to R103). In every
meaning pc is already the address of the instruction plus 2 (R92).
-/

namespace Sys2Proof.Machine

/-- The unknown opcode: one diagnostic with the word and its address, and nothing else (R94, 60_exceptions.md R219). -/
def execUnknown (w : Word) (s : State) : Result := .next (s.emit (.unknownOpcode w s.instrAddr))

/-- SYS addr: an unknown opcode (R95). -/
def execSys (nnn : Addr) (s : State) : Result := execUnknown (addrOperand nnn) s

/-- RET (R96). -/
def execRet (s : State) : Result :=
  s.complete <|
    match s.pop with
    | .ok (target, t) => .ok (t.jump target)
    | .error trap => .error trap

/-- JP addr (R97). -/
def execJp (nnn : Addr) (s : State) : Result := .next (s.jump (addrOperand nnn))

/-- CALL addr (R98). -/
def execCall (nnn : Addr) (s : State) : Result :=
  s.complete <|
    match s.push s.pc with
    | .ok t => .ok (t.jump (addrOperand nnn))
    | .error trap => .error trap

/-- SE Vx, byte (R99). -/
def execSeImm (x : Reg) (nn : Byte) (s : State) : Result := .next (s.skipIf (s.getV x == nn))

/-- SNE Vx, byte (R100). -/
def execSneImm (x : Reg) (nn : Byte) (s : State) : Result := .next (s.skipIf (s.getV x != nn))

/-- SE Vx, Vy (R101). -/
def execSeReg (x y : Reg) (s : State) : Result := .next (s.skipIf (s.getV x == s.getV y))

/-- SNE Vx, Vy (R102). -/
def execSneReg (x y : Reg) (s : State) : Result := .next (s.skipIf (s.getV x != s.getV y))

/-- JP V0, addr: always V0, not reduced modulo 4096 (R103). -/
def execJpV0 (nnn : Addr) (s : State) : Result := .next (s.jump (addrOperand nnn + wordOperand (s.getV 0)))

end Sys2Proof.Machine
end

