-- ==== Sys2Proof/Machine/Display.lean ====
section
/-!
DEFINITION. The display instructions (43_display.md R170 to R175).
-/

namespace Sys2Proof.Machine

/-- CLS (R171). -/
def execCls (s : State) : Result := .next { s with disp := Display.blank, changed := true }

/-- The draw itself, once its range is checked: blit, VF <- hit, CHANGED <- 1 (R172). -/
def State.draw (s : State) (vx vy : Byte) (rows : List Byte) : State :=
  let drawn := s.disp.blit false (spritePlaces vx vy 0 rows)
  ({ s with disp := drawn.1, changed := true } : State).setV flagReg (flagOf drawn.2)

/-- DRW Vx, Vy, nibble (R172). -/
def execDrw (x y : Reg) (n : Fin 16) (s : State) : Result :=
  s.complete <|
    match checkRange s.i n.val with
    | .ok _ => .ok (s.draw (s.getV x) (s.getV y) (s.readBytes s.i.toNat n.val))
    | .error trap => .error trap

end Sys2Proof.Machine
end

