-- ==== Sys2Proof/Machine/IndexMem.lean ====
section
/-!
DEFINITION. The index register and the instructions that move bytes through it (42_index_memory.md R150 to R158).
Each memory instruction checks its whole range before it changes anything (20_memory.md R45).
-/

namespace Sys2Proof.Machine

/-- LD I, addr (R150). -/
def execLdI (nnn : Addr) (s : State) : Result := .next (s.setI (addrOperand nnn))

/-- ADD I, Vx: modulo 65536, no flag (R151). -/
def execAddI (x : Reg) (s : State) : Result := .next (s.setI (s.i + wordOperand (s.getV x)))

/-- LD F, Vx (R153). -/
def execLdF (x : Reg) (s : State) : Result := .next (s.setI (glyphAddr (fontDigit (s.getV x))))

/-- LD B, Vx (R154). -/
def execLdB (x : Reg) (s : State) : Result :=
  s.complete <|
    match checkRange s.i 3 with
    | .ok _ => .ok (s.writeBytes s.i.toNat (bcdDigits (s.getV x)))
    | .error trap => .error trap

/-- Register save under either setting of LOADSTORE_INCREMENTS_I (R155). -/
def saveRegs (increments : Bool) (x : Reg) (s : State) : Result :=
  s.complete <|
    match checkRange s.i (x.val + 1) with
    | .ok _ => .ok ((s.writeBytes s.i.toNat (s.regsUpTo x)).setI (indexAfter increments s.i x))
    | .error trap => .error trap

/-- LD [I], Vx (R155). -/
def execLdMemVx (x : Reg) (s : State) : Result := saveRegs Config.loadStoreIncrementsI x s

/-- Register restore under either setting of LOADSTORE_INCREMENTS_I (R156). -/
def restoreRegs (increments : Bool) (x : Reg) (s : State) : Result :=
  s.complete <|
    match checkRange s.i (x.val + 1) with
    | .ok _ => .ok ((s.setRegs (s.readBytes s.i.toNat (x.val + 1))).setI (indexAfter increments s.i x))
    | .error trap => .error trap

/-- LD Vx, [I] (R156). -/
def execLdVxMem (x : Reg) (s : State) : Result := restoreRegs Config.loadStoreIncrementsI x s

end Sys2Proof.Machine
end

