-- ==== Sys2Proof/Machine/Keypad.lean ====
section
/-!
DEFINITION. The keypad instructions (44_keypad.md R186 to R188).
-/

namespace Sys2Proof.Machine

/-- SKP Vx: skip if the key is flagged, then clear its flag (R186). -/
def execSkp (x : Reg) (s : State) : Result :=
  let k := keyIndex (s.getV x)
  .next ((s.skipIf (s.key k)).setKey k false)

/-- SKNP Vx: skip if the key is not flagged; the flag stays (R187). -/
def execSknp (x : Reg) (s : State) : Result := .next (s.skipIf (!s.key (keyIndex (s.getV x))))

/-- LD Vx, K: instruction steps stop until a press event (R188). -/
def execLdVxK (x : Reg) (s : State) : Result := .next { s with waiting := true, waitReg := x }

end Sys2Proof.Machine
end

