-- ==== Sys2Proof/Machine/Timer.lean ====
section
/-!
DEFINITION. The timer instructions (45_timers.md R200 to R202).
-/

namespace Sys2Proof.Machine

/-- LD Vx, DT (R200). -/
def execLdVxDT (x : Reg) (s : State) : Result := .next (s.setV x s.dt)

/-- LD DT, Vx (R201). -/
def execLdDTVx (x : Reg) (s : State) : Result := .next { s with dt := s.getV x }

/-- LD ST, Vx: no strobe (R202). -/
def execLdSTVx (x : Reg) (s : State) : Result := .next { s with st := s.getV x }

end Sys2Proof.Machine
end

