-- ==== Sys2Proof/Machine/Events.lean ====
section
/-!
DEFINITION. The host's operations other than the instruction strobe (60_exceptions.md R222, R231 to R234;
44_keypad.md R195; 70_reset_and_hazards.md R250 to R268). Each is one atomic step (00_scope.md R8) and always enabled
(10_state.md R31).
-/

namespace Sys2Proof.Machine

/-- A timer after a tick: toward zero, never below (R222). -/
def countDown (b : Byte) : Byte := if b = 0 then 0 else b - 1

/-- The strobes of a tick that finds ST at this value, newest first: accumulate while nonzero, then flush when the
tick takes it to zero (R222, D23). -/
def soundStrobes (st : Byte) : List Output :=
  if st = 0 then [] else if st = 1 then [.beepFlush, .beepAccumulate] else [.beepAccumulate]

/-- One timer tick (R222). -/
def timerTick (s : State) : State :=
  { s with
    dt := countDown s.dt
    st := countDown s.st
    outputs := soundStrobes s.st ++ s.outputs }

/-- A key event with a code inside 0 to 15: its flag is written, and a press while WAITING puts the code in
V[WAIT_REG] and ends the wait (44_keypad.md R195). -/
def State.applyKey (s : State) (k : Fin 16) (pressed : Bool) : State :=
  if s.waiting && pressed then
    ({ s.setKey k pressed with waiting := false } : State).setV s.waitReg (BitVec.ofNat 8 k.val)
  else s.setKey k pressed

/-- setKeyState(key, pressed): a code above 15 is ignored (R195, D27). -/
def keyEvent (key : Nat) (pressed : Bool) (s : State) : State :=
  if h : key < 16 then s.applyKey ⟨key, h⟩ pressed else s

/-- Render-consume: the host takes the frame if it changed (R232). -/
def renderConsume (s : State) : State :=
  if s.changed then { s.emit (.frame s.disp) with changed := false } else s

/-- The lesser of a rate and RATE_MAX, where there is one (R268). -/
def capRate (limit : Option Nat) (r : Nat) : Nat :=
  match limit with
  | none => r
  | some m => min r m

/-- increaseRate() (R234, R268). -/
def increaseRate (s : State) : State := { s with rate := capRate Config.rateMax (s.rate + Config.rateStep) }

/-- decreaseRate(): never below zero (R234, R268). -/
def decreaseRate (s : State) : State := { s with rate := s.rate - Config.rateStep }

/-- Load: reset, then copy the blob to 0x200; an oversized blob changes nothing (R254, D25). -/
def loadProgram (blob : List Byte) (s : State) : State :=
  if blob.length > Config.memSize - Config.progBase then s.emit .loadError
  else (s.doReset.writeBytes Config.progBase blob).emit .loadOk

/-- InstrGate(now): whether the instruction strobe fires, and its new timestamp (R266). -/
def instrGate (now : Nat) (s : State) : Bool × State :=
  if s.rate = 0 then (false, s)
  else if (now - s.tInstr) * s.rate ≥ 1000 then (true, { s with tInstr := now })
  else (false, s)

/-- TimerGate(now) (R267). -/
def timerGate (now : Nat) (s : State) : Bool × State :=
  if (now - s.tTimer) * Config.timerHz ≥ 1000 then (true, { s with tTimer := now }) else (false, s)

end Sys2Proof.Machine
end

