-- ==== Sys2Proof/Machine/Cycle.lean ====
section
/-!
DEFINITION. Fetch, the instruction step, the cycle() call and the performance of one host operation
(40_fetch_and_control.md R90 to R94; 70_reset_and_hazards.md R265; 60_exceptions.md R231).
-/

namespace Sys2Proof.Machine

/-- The instruction word at an address, high byte first (20_memory.md R42). -/
def State.wordAt (s : State) (a : Nat) : Word := wordOfBytes (s.readByte a) (s.readByte (a + 1))

/-- Fetch: the range check, the word at pc, pc <- pc + 2 (R91, R92). -/
def State.fetch (s : State) : Except Trap (Word × State) :=
  if s.pc.toNat > Config.memSize - 2 then .error ⟨.programCounterOutOfRange, s.pc⟩
  else .ok (s.wordAt s.pc.toNat, { s with pc := s.pc + 2 })

/-- Execute a word that has been fetched: the decoded instruction, or the unknown opcode (R90, R94). -/
def execWord (w : Word) (s : State) : Result :=
  match decode w with
  | .ok i => exec i s
  | .error _ => execUnknown w s

/-- One instruction strobe: nothing changes when the step is not enabled (R90, R231). -/
def instrStep (s : State) : Result :=
  if s.enabled then
    match s.fetch with
    | .ok (w, t) => execWord w t
    | .error trap => .next (raise s.pc trap s)
  else .next s

/-- The timer half of a cycle() call (R265, R267). -/
def State.cycleTimer (now : Nat) (s : State) : State :=
  if (timerGate now s).1 then timerTick (timerGate now s).2 else s

/-- One cycle(now) call: the gated instruction step, then the gated tick (R265). The instruction gate's timestamp is
updated whether or not the latch blocks the step (R266). -/
def cycleCall (now : Nat) (s : State) : Result :=
  match (if (instrGate now s).1 then instrStep (instrGate now s).2 else .next s) with
  | .next t => .next (t.cycleTimer now)
  | .fault r => .fault r
  | .refused r => .refused r

/-- Perform one host operation (60_exceptions.md R231). -/
def hostStep (op : HostOp) (s : State) : Result :=
  match op with
  | .instrStrobe => instrStep s
  | .timerStrobe => .next (timerTick s)
  | .keyEvent key pressed => .next (keyEvent key pressed s)
  | .renderConsume => .next (renderConsume s)
  | .increaseRate => .next (increaseRate s)
  | .decreaseRate => .next (decreaseRate s)
  | .reset => .next s.doReset
  | .load blob => .next (loadProgram blob s)
  | .cycle now => cycleCall now s

/-- The next host operation and the state with it taken from the schedule; an empty schedule means an instruction
strobe (log 1). -/
def State.nextOp (s : State) : HostOp × State :=
  match s.schedule with
  | [] => (.instrStrobe, s)
  | op :: rest => (op, { s with schedule := rest })

/-- The state in which the very next step fetches the word with bits w: the word's two bytes at pc, high byte first
(20_memory.md R42), with the step enabled, pc where a word can be fetched, and an instruction strobe next. -/
def State.placeWord (s : State) (nbits w : Nat) : State :=
  let t : State :=
    { s with
      halted := false
      waiting := false
      pc := if s.pc.toNat > Config.memSize - 2 then Config.pcReset else s.pc
      schedule := if s.schedule.isEmpty then [] else .instrStrobe :: s.schedule }
  t.writeBytes t.pc.toNat (tableWordBytes nbits w)

end Sys2Proof.Machine
end

