-- ==== Sys2Proof/Machine/Step.lean ====
section
/-!
DEFINITION. One step of the machine: the next host operation of the schedule is performed (00_scope.md R8,
70_reset_and_hazards.md R262).
-/

namespace Sys2Proof.Machine

/-- One atomic step. -/
def step (s : State) : Host.Outcome State Fault Refusal := hostStep s.nextOp.1 s.nextOp.2

/-- s with the instruction whose bits are w stored where step fetches its next instruction. -/
def State.withFetchWord (s : State) (nbits w : Nat) : State := s.placeWord nbits w

end Sys2Proof.Machine
end

