-- ==== Sys2Proof/Safety.lean ====
section
/-!
DEFINITION. The terms claims are stated in: what may differ between two states (frames), a fault taken, the pixels a
sprite covers, and the invariant of the machine.
-/

namespace Sys2Proof.Machine

/-- What may differ between two states. Everything not named stays. -/
structure May where
  /-- General registers that may change. -/
  regs : List Reg := []
  /-- Memory addresses whose byte may change. -/
  bytes : List Nat := []
  /-- Key flags that may change. -/
  keys : List (Fin 16) := []
  pc : Bool := false
  i : Bool := false
  stack : Bool := false
  disp : Bool := false
  changed : Bool := false
  /-- WAITING and WAIT_REG. -/
  latch : Bool := false
  dt : Bool := false
  st : Bool := false
  /-- HALTED, FAULT, FAULT_ADDR, FAULT_INFO. -/
  fault : Bool := false
  /-- RATE and the gate's timestamps. -/
  gate : Bool := false
  draws : Bool := false
  schedule : Bool := false
  outputs : Bool := false

/-- t differs from s at most where m allows it. -/
structure Frame (m : May) (s t : State) : Prop where
  regs : ∀ k, k ∉ m.regs → t.getV k = s.getV k
  bytes : ∀ a, a ∉ m.bytes → t.readByte a = s.readByte a
  keys : ∀ k, k ∉ m.keys → t.key k = s.key k
  pc : m.pc = false → t.pc = s.pc
  i : m.i = false → t.i = s.i
  stack : m.stack = false → t.stack = s.stack
  disp : m.disp = false → ∀ p, t.disp.pixel p = s.disp.pixel p
  changed : m.changed = false → t.changed = s.changed
  latch : m.latch = false → t.waiting = s.waiting ∧ t.waitReg = s.waitReg
  dt : m.dt = false → t.dt = s.dt
  st : m.st = false → t.st = s.st
  fault : m.fault = false →
    t.halted = s.halted ∧ t.fault = s.fault ∧ t.faultAddr = s.faultAddr ∧ t.faultInfo = s.faultInfo
  gate : m.gate = false → t.rate = s.rate ∧ t.tInstr = s.tInstr ∧ t.tTimer = s.tTimer
  draws : m.draws = false → t.draws = s.draws
  schedule : m.schedule = false → t.schedule = s.schedule
  outputs : m.outputs = false → t.outputs = s.outputs

/-- t is s with the fault entered at instruction address a, and nothing else changed (60_exceptions.md R213). -/
structure FaultTaken (code : FaultCode) (a info : Word) (s t : State) : Prop where
  isHalted : t.halted = true
  codeIs : t.fault = code
  addrIs : t.faultAddr = a
  infoIs : t.faultInfo = info
  report : t.outputs = .fault code a info :: s.outputs
  frame : Frame { fault := true, outputs := true } s t

/-- A 1 bit of the n sprite rows from address base, drawn at (vx, vy), falls on the place p (43_display.md R172). -/
def SpriteCovers (s : State) (vx vy : Byte) (base n : Nat) (p : Place) : Prop :=
  ∃ r c, r < n ∧ c < 8 ∧ (s.readByte (base + r)).getLsbD (7 - c) = true ∧
    p.1.val = (vy.toNat + r) % 32 ∧ p.2.val = (vx.toNat + c) % 64

/-- Every byte of base, ..., base + count - 1 is in memory (20_memory.md R45); a count of 0 always is. -/
def InRange (base : Word) (count : Nat) : Prop := count = 0 ∨ base.toNat + count ≤ 4096

/-- The first address of a range that is out of memory, when one is (20_memory.md R45). -/
def firstBad (base : Word) : Word := if base.toNat ≤ 4095 then 4096 else base

/-- The registers an instruction may write: its destination, and VF where the instruction sets it as a flag
(10_state.md R26, 41_load_arith.md R141, 42_index_memory.md R156, 43_display.md R172). -/
def destRegs : Instr → List Reg
  | .sys _ => []
  | .cls => []
  | .ret => []
  | .jp _ => []
  | .call _ => []
  | .seImm _ _ => []
  | .sneImm _ _ => []
  | .seReg _ _ => []
  | .ldImm x _ => [x]
  | .addImm x _ => [x]
  | .ldReg x _ => [x]
  | .orReg x _ => [x]
  | .andReg x _ => [x]
  | .xorReg x _ => [x]
  | .addReg x _ => [x, flagReg]
  | .subReg x _ => [x, flagReg]
  | .shr x _ => [x, flagReg]
  | .subn x _ => [x, flagReg]
  | .shl x _ => [x, flagReg]
  | .sneReg _ _ => []
  | .ldI _ => []
  | .jpV0 _ => []
  | .rnd x _ => [x]
  | .drw _ _ _ => [flagReg]
  | .skp _ => []
  | .sknp _ => []
  | .ldVxDT x => [x]
  | .ldVxK _ => []
  | .ldDTVx _ => []
  | .ldSTVx _ => []
  | .addI _ => []
  | .ldF _ => []
  | .ldB _ => []
  | .ldMemVx _ => []
  | .ldVxMem x => (List.finRange 16).filter (fun k => decide (k.val ≤ x.val))

/-- Every word with the fixed bits of a row decodes as f says (30_encoding.md R66: match and mask). -/
def DecodesAs (row : OpcodeRow) (f : Word → Instr) : Prop := ∀ w, row.Matches w → decode w = .ok (f w)

/-- An operation that can neither end a wait nor reset the core: everything but a press of a key of the pad, a reset
and a load (44_keypad.md R185). -/
def Quiet : HostOp → Prop
  | .instrStrobe => True
  | .timerStrobe => True
  | .keyEvent key pressed => key > 15 ∨ pressed = false
  | .renderConsume => True
  | .increaseRate => True
  | .decreaseRate => True
  | .reset => False
  | .load _ => False
  | .cycle _ => True

/-- Host operations performed one after the other. -/
def runOps : List HostOp → State → Result
  | [], s => .next s
  | op :: ops, s =>
    match hostStep op s with
    | .next t => runOps ops t
    | .fault r => .fault r
    | .refused r => .refused r

/-- The invariant of the machine: memory in its canonical form, at most STACK_DEPTH return addresses (10_state.md
R16), none above the end of memory, pc at most 0x10FE (R15), a halted core not waiting (R25), and HALTED set exactly
while a fault is recorded (R25). -/
structure Inv (s : State) : Prop where
  mem : s.mem.wf
  depth : s.stack.length ≤ 16
  entries : ∀ a ∈ s.stack, a.toNat ≤ 4096
  pc : s.pc.toNat ≤ 0x10FE
  latch : ¬ (s.halted = true ∧ s.waiting = true)
  fault : s.halted = true ↔ s.fault ≠ .none

end Sys2Proof.Machine
end

