-- ==== Sys2Proof/WellFormed.lean ====
section
/-!
DEFINITION. Which terms of Instr are instructions of the table. The operand types already hold every bound of
30_encoding.md R62; the one check left is SYS's: it matches only when neither CLS nor RET does (R66 row 1).
-/

namespace Sys2Proof

/-- SYS's address field may not have CLS's or RET's low byte, or its word would be theirs (R65, R66). -/
def sysFieldOk (nnn : Addr) : Bool :=
  nnn.extractLsb' 0 8 != 0xE0 && nnn.extractLsb' 0 8 != 0xEE

/-- The check of each constructor. -/
def Instr.wf : Instr → Bool
  | .sys nnn => sysFieldOk nnn
  | .cls => true
  | .ret => true
  | .jp _ => true
  | .call _ => true
  | .seImm _ _ => true
  | .sneImm _ _ => true
  | .seReg _ _ => true
  | .ldImm _ _ => true
  | .addImm _ _ => true
  | .ldReg _ _ => true
  | .orReg _ _ => true
  | .andReg _ _ => true
  | .xorReg _ _ => true
  | .addReg _ _ => true
  | .subReg _ _ => true
  | .shr _ _ => true
  | .subn _ _ => true
  | .shl _ _ => true
  | .sneReg _ _ => true
  | .ldI _ => true
  | .jpV0 _ => true
  | .rnd _ _ => true
  | .drw _ _ _ => true
  | .skp _ => true
  | .sknp _ => true
  | .ldVxDT _ => true
  | .ldVxK _ => true
  | .ldDTVx _ => true
  | .ldSTVx _ => true
  | .addI _ => true
  | .ldF _ => true
  | .ldB _ => true
  | .ldMemVx _ => true
  | .ldVxMem _ => true

/-- A term of Instr that is an instruction of the table. -/
abbrev Instr.WellFormed (i : Instr) : Prop := i.wf = true

end Sys2Proof
end

