-- ==== Sys2Proof/Certificates/Slice0/Obligations.lean ====
section
/-!
DEFINITION. What is to be proved of the model. Each statement's docstring names the rule of spec/ it formalises, or
says that it is derived and from what. Where a statement gives an instruction's result it also gives its encoding, its
completion and its frame. `Frame m s t` says that t differs from s at most where m says so.
-/

open Sys2Proof Sys2Proof.Machine

/-! ### Encoding (30_encoding.md) -/

/-- Derived from R61, R62, R67 and R80: decoding the canonical word of any instruction of the table gives the
instruction back with every operand, as a word and as the two bytes in memory followed by anything. -/
def Obligations.DecodeEncodeRoundTrip : Prop :=
  ∀ i : Instr, i.WellFormed →
    decode (encode i) = .ok i ∧ ∀ rest, decodeBytes (encodeBytes i ++ rest) = .ok (i, rest)

/-- Derived from R66 and R67: the decoder, written from the pseudocode of R67, agrees with the match and mask rows of
R66: what it answers is well formed and the word has the fixed bits of the answer's row. -/
def Obligations.DecodeAgreesWithOpcodeMap : Prop :=
  ∀ w i, decode w = .ok i → i.WellFormed ∧ i.row.Matches w

/-- Derived from R66, R67 and R74: the unknown words are exactly those R74 lists: group 0 without the low bytes E0 and EE (all of SYS), group 8
with a low nibble of 8 to D or F, groups E and F with a low byte outside their lists. Every other word is a defined
instruction other than SYS. -/
def Obligations.UnknownWordsAreExactlyThoseListed : Prop :=
  ∀ w : Word,
    let op := w.toNat / 4096
    let n := w.toNat % 16
    let b := w.toNat % 256
    ((∃ nnn, decode w = .ok (.sys nnn)) ↔ op = 0 ∧ b ≠ 0xE0 ∧ b ≠ 0xEE) ∧
    ((∃ e, decode w = .error e) ↔
      (op = 8 ∧ n ∈ [8, 9, 0xA, 0xB, 0xC, 0xD, 0xF]) ∨
      (op = 0xE ∧ b ≠ 0x9E ∧ b ≠ 0xA1) ∨
      (op = 0xF ∧ b ∉ [0x07, 0x0A, 0x15, 0x18, 0x1E, 0x29, 0x33, 0x55, 0x65])) ∧
    (∀ e, decode w = .error e → e = .unknownOpcode w)

/-- Derived from R64, R65 and R75: the bits that take no part in dispatch and are no operand are ignored. Two words of
group 5, or of group 9, that differ only in their low nibble decode alike; so do two words of group 0 with the low
byte E0, or EE, whatever their bits 11:8. -/
def Obligations.DontCareBitsIgnored : Prop :=
  ∀ w u : Word,
    (w.toNat / 16 = u.toNat / 16 → w.toNat / 4096 = 5 ∨ w.toNat / 4096 = 9 → decode w = decode u) ∧
    (w.toNat / 4096 = 0 → u.toNat / 4096 = 0 → w.toNat % 256 = u.toNat % 256 →
      w.toNat % 256 = 0xE0 ∨ w.toNat % 256 = 0xEE → decode w = decode u)

/-- Derived from R66: words written out from the map decode to the instruction they stand for, one or more a family,
the source's own four among them (6005, 6105, 8014, 00E0). -/
def Obligations.SampleWordsDecode : Prop :=
  decode 0x00E0 = .ok .cls ∧ decode 0x6005 = .ok (.ldImm 0 5) ∧ decode 0x6105 = .ok (.ldImm 1 5) ∧
  decode 0x8014 = .ok (.addReg 0 1) ∧ decode 0x2ABC = .ok (.call 0xABC) ∧ decode 0xA20A = .ok (.ldI 0x20A) ∧
  decode 0xD345 = .ok (.drw 3 4 5) ∧ decode 0xE29E = .ok (.skp 2) ∧ decode 0xF118 = .ok (.ldSTVx 1)

/-! ### The instruction step (40_fetch_and_control.md R90 to R94) -/

/-- Derived from R90, R92 and R42 (the schedule is the model's own, log 1): when the step is enabled, the next host
operation is an instruction strobe and the two bytes at pc, high byte first, decode to i, the step is exec of i in the
state with pc advanced by 2 and the strobe taken from the schedule. -/
def Obligations.StepRunsDecodedInstruction : Prop :=
  ∀ (s : State) (i : Instr) (rest : List HostOp),
    s.halted = false → s.waiting = false → s.pc.toNat ≤ 4094 →
    (s.schedule = [] ∧ rest = [] ∨ s.schedule = .instrStrobe :: rest) →
    decode (wordOfBytes (s.readByte s.pc.toNat) (s.readByte (s.pc.toNat + 1))) = .ok i →
    step s = exec i { s with pc := s.pc + 2, schedule := rest }

/-- Derived from R90 and R231 (the schedule is the model's own, log 1): an instruction strobe while halted or waiting
changes nothing, whatever memory holds at pc. -/
def Obligations.StrobeWithoutEnableChangesNothing : Prop :=
  ∀ s : State, s.halted = true ∨ s.waiting = true → hostStep .instrStrobe s = .next s

/-- R91: a fetch with pc of 4095 or more raises ProgramCounterOutOfRange with FAULT_ADDR and FAULT_INFO equal to pc;
pc and everything else stay. -/
def Obligations.FetchOutOfRangeFaults : Prop :=
  ∀ s : State, s.halted = false → s.waiting = false → 4094 < s.pc.toNat →
    ∃ t, hostStep .instrStrobe s = .next t ∧ FaultTaken .programCounterOutOfRange s.pc s.pc s t ∧ t.pc = s.pc

/-- R94: an enabled step over a word that decodes to no instruction, or to SYS, emits one UnknownOpcode with the word
and the address it was fetched from, advances pc by 2 and changes nothing else. -/
def Obligations.UnknownWordStep : Prop :=
  ∀ s : State, s.halted = false → s.waiting = false → s.pc.toNat ≤ 4094 →
    ∀ w : Word, w = wordOfBytes (s.readByte s.pc.toNat) (s.readByte (s.pc.toNat + 1)) →
    ((∃ e, decode w = .error e) ∨ ∃ nnn, decode w = .ok (.sys nnn)) →
    ∃ t, hostStep .instrStrobe s = .next t ∧ t.pc = s.pc + 2 ∧
      t.outputs = .unknownOpcode w s.pc :: s.outputs ∧ Frame { pc := true, outputs := true } s t

/-- Derived from R90, R93, R211 and R213: a step never stops the machine: from every state, reachable or not, it answers
a next state. That a fatal fault, and a strobe that is not enabled, are next states is the model's choice (log 6, DEDUCED):
R213 says that the core stops, and in the model a stopped core is a state with HALTED set, in which later instruction
strobes change nothing. -/
def Obligations.StepAlwaysAnswersNext : Prop := ∀ s : State, ∃ t, step s = .next t

/-! ### Control transfer (40_fetch_and_control.md R95 to R103) -/

/-- R95: SYS emits one UnknownOpcode with its own word, 0NNN, and its address, and changes nothing else. -/
def Obligations.SysIsUnknownOpcode : Prop :=
  (∀ w, w &&& 0xF000 = 0 → nnField w ≠ 0xE0 → nnField w ≠ 0xEE → decode w = .ok (.sys (nnnField w))) ∧
  ∀ (nnn : Addr) (s : State), ∃ t, exec (.sys nnn) s = .next t ∧
    (∃ w, t.outputs = .unknownOpcode w (s.pc - 2) :: s.outputs ∧ w.toNat = nnn.toNat) ∧
    Frame { outputs := true } s t

/-- R96: RET takes the most recent return address from the stack to pc; with an empty stack it raises StackUnderflow
with the information 0. -/
def Obligations.RetResult : Prop :=
  DecodesAs ⟨0x00EE, 0xF0FF⟩ (fun _ => .ret) ∧
  (∀ (s : State) (a : Word) (rest : List Word), s.stack = a :: rest →
    ∃ t, exec .ret s = .next t ∧ t.pc = a ∧ t.stack = rest ∧ Frame { pc := true, stack := true } s t) ∧
  (∀ s : State, s.stack = [] →
    ∃ t, exec .ret s = .next t ∧ FaultTaken .stackUnderflow (s.pc - 2) 0 s t)

/-- R97: JP puts its address, zero-extended, in pc. -/
def Obligations.JpResult : Prop :=
  DecodesAs ⟨0x1000, 0xF000⟩ (fun w => .jp (nnnField w)) ∧
  ∀ (nnn : Addr) (s : State), ∃ t, exec (.jp nnn) s = .next t ∧ t.pc.toNat = nnn.toNat ∧
    Frame { pc := true } s t

/-- R98: CALL pushes pc, the address of the next instruction, and jumps; with 16 return addresses on the stack it
raises StackOverflow with the address it could not push and pushes nothing. -/
def Obligations.CallResult : Prop :=
  DecodesAs ⟨0x2000, 0xF000⟩ (fun w => .call (nnnField w)) ∧
  (∀ (nnn : Addr) (s : State), s.stack.length < 16 →
    ∃ t, exec (.call nnn) s = .next t ∧ t.stack = s.pc :: s.stack ∧ t.pc.toNat = nnn.toNat ∧
      Frame { pc := true, stack := true } s t) ∧
  (∀ (nnn : Addr) (s : State), s.stack.length = 16 →
    ∃ t, exec (.call nnn) s = .next t ∧ FaultTaken .stackOverflow (s.pc - 2) s.pc s t)

/-- R99 and R100: SE and SNE with a byte add 2 to pc, modulo 65536, when the register equals, or differs from, the
byte, and change nothing else. -/
def Obligations.SkipOnByteResult : Prop :=
  (DecodesAs ⟨0x3000, 0xF000⟩ (fun w => .seImm (xField w) (nnField w)) ∧
  ∀ (x : Reg) (nn : Byte) (s : State), ∃ t, exec (.seImm x nn) s = .next t ∧ Frame { pc := true } s t ∧
    (s.getV x = nn → t.pc.toNat = (s.pc.toNat + 2) % 65536) ∧ (s.getV x ≠ nn → t.pc = s.pc)) ∧
  (DecodesAs ⟨0x4000, 0xF000⟩ (fun w => .sneImm (xField w) (nnField w)) ∧
  ∀ (x : Reg) (nn : Byte) (s : State), ∃ t, exec (.sneImm x nn) s = .next t ∧ Frame { pc := true } s t ∧
    (s.getV x ≠ nn → t.pc.toNat = (s.pc.toNat + 2) % 65536) ∧ (s.getV x = nn → t.pc = s.pc))

/-- R101 and R102: SE and SNE with two registers add 2 to pc, modulo 65536, when the registers are equal, or differ,
and change nothing else; the low nibble of the word is ignored. -/
def Obligations.SkipOnRegisterResult : Prop :=
  (DecodesAs ⟨0x5000, 0xF000⟩ (fun w => .seReg (xField w) (yField w)) ∧
  ∀ (x y : Reg) (s : State), ∃ t, exec (.seReg x y) s = .next t ∧ Frame { pc := true } s t ∧
    (s.getV x = s.getV y → t.pc.toNat = (s.pc.toNat + 2) % 65536) ∧ (s.getV x ≠ s.getV y → t.pc = s.pc)) ∧
  (DecodesAs ⟨0x9000, 0xF000⟩ (fun w => .sneReg (xField w) (yField w)) ∧
  ∀ (x y : Reg) (s : State), ∃ t, exec (.sneReg x y) s = .next t ∧ Frame { pc := true } s t ∧
    (s.getV x ≠ s.getV y → t.pc.toNat = (s.pc.toNat + 2) % 65536) ∧ (s.getV x = s.getV y → t.pc = s.pc))

/-- R103: JP V0 puts the exact sum of its address and V0 in pc, not reduced modulo 4096. -/
def Obligations.JpV0Result : Prop :=
  DecodesAs ⟨0xB000, 0xF000⟩ (fun w => .jpV0 (nnnField w)) ∧
  ∀ (nnn : Addr) (s : State), ∃ t, exec (.jpV0 nnn) s = .next t ∧
    t.pc.toNat = nnn.toNat + (s.getV 0).toNat ∧ t.pc.toNat ≤ 0x10FE ∧ Frame { pc := true } s t

/-! ### Load, arithmetic, logic, random (41_load_arith.md) -/

/-- R120: LD Vx, byte puts the byte in V[x] and changes nothing else. -/
def Obligations.LdImmResult : Prop :=
  DecodesAs ⟨0x6000, 0xF000⟩ (fun w => .ldImm (xField w) (nnField w)) ∧
  ∀ (x : Reg) (nn : Byte) (s : State), ∃ t, exec (.ldImm x nn) s = .next t ∧ t.getV x = nn ∧
    Frame { regs := [x] } s t

/-- R121: ADD Vx, byte adds modulo 256 and writes no flag. -/
def Obligations.AddImmResult : Prop :=
  DecodesAs ⟨0x7000, 0xF000⟩ (fun w => .addImm (xField w) (nnField w)) ∧
  ∀ (x : Reg) (nn : Byte) (s : State), ∃ t, exec (.addImm x nn) s = .next t ∧
    (t.getV x).toNat = ((s.getV x).toNat + nn.toNat) % 256 ∧ Frame { regs := [x] } s t

/-- R122: LD Vx, Vy copies V[y] to V[x] and changes nothing else. -/
def Obligations.LdRegResult : Prop :=
  DecodesAs ⟨0x8000, 0xF00F⟩ (fun w => .ldReg (xField w) (yField w)) ∧
  ∀ (x y : Reg) (s : State), ∃ t, exec (.ldReg x y) s = .next t ∧ t.getV x = s.getV y ∧
    Frame { regs := [x] } s t

/-- R123, R124, R125: OR, AND and XOR compute bit by bit on the old registers; VF is not written. -/
def Obligations.LogicResult : Prop :=
  (DecodesAs ⟨0x8001, 0xF00F⟩ (fun w => .orReg (xField w) (yField w)) ∧
  ∀ (x y : Reg) (s : State), ∃ t, exec (.orReg x y) s = .next t ∧ Frame { regs := [x] } s t ∧
    ∀ k, (t.getV x).getLsbD k = ((s.getV x).getLsbD k || (s.getV y).getLsbD k)) ∧
  (DecodesAs ⟨0x8002, 0xF00F⟩ (fun w => .andReg (xField w) (yField w)) ∧
  ∀ (x y : Reg) (s : State), ∃ t, exec (.andReg x y) s = .next t ∧ Frame { regs := [x] } s t ∧
    ∀ k, (t.getV x).getLsbD k = ((s.getV x).getLsbD k && (s.getV y).getLsbD k)) ∧
  (DecodesAs ⟨0x8003, 0xF00F⟩ (fun w => .xorReg (xField w) (yField w)) ∧
  ∀ (x y : Reg) (s : State), ∃ t, exec (.xorReg x y) s = .next t ∧ Frame { regs := [x] } s t ∧
    ∀ k, (t.getV x).getLsbD k = ((s.getV x).getLsbD k != (s.getV y).getLsbD k))

/-- R127: ADD Vx, Vy leaves the sum modulo 256 in V[x] unless x is 15, and the carry, 1 exactly when the exact sum
passes 255, in VF always. -/
def Obligations.AddRegResult : Prop :=
  DecodesAs ⟨0x8004, 0xF00F⟩ (fun w => .addReg (xField w) (yField w)) ∧
  ∀ (x y : Reg) (s : State), ∃ t, exec (.addReg x y) s = .next t ∧
    (x ≠ 15 → (t.getV x).toNat = ((s.getV x).toNat + (s.getV y).toNat) % 256) ∧
    t.getV 15 = (if (s.getV x).toNat + (s.getV y).toNat > 255 then 1 else 0) ∧
    Frame { regs := [x, 15] } s t

/-- R128 and R130: SUB leaves V[x] - V[y], SUBN V[y] - V[x], modulo 256 in V[x] unless x is 15, and in VF 1 exactly
when there is no borrow: the minuend is at least the subtrahend. -/
def Obligations.SubtractResult : Prop :=
  (DecodesAs ⟨0x8005, 0xF00F⟩ (fun w => .subReg (xField w) (yField w)) ∧
  ∀ (x y : Reg) (s : State), ∃ t, exec (.subReg x y) s = .next t ∧
    (x ≠ 15 → (t.getV x).toNat = ((s.getV x).toNat + 256 - (s.getV y).toNat) % 256) ∧
    t.getV 15 = (if (s.getV x).toNat ≥ (s.getV y).toNat then 1 else 0) ∧
    Frame { regs := [x, 15] } s t) ∧
  (DecodesAs ⟨0x8007, 0xF00F⟩ (fun w => .subn (xField w) (yField w)) ∧
  ∀ (x y : Reg) (s : State), ∃ t, exec (.subn x y) s = .next t ∧
    (x ≠ 15 → (t.getV x).toNat = ((s.getV y).toNat + 256 - (s.getV x).toNat) % 256) ∧
    t.getV 15 = (if (s.getV y).toNat ≥ (s.getV x).toNat then 1 else 0) ∧
    Frame { regs := [x, 15] } s t)

/-- R129: SHR halves the shifted register into V[x] unless x is 15 and leaves its old bit 0 in VF. The instruction
shifts V[x] (SHIFT_USES_VY false); the operation under the other setting shifts V[y]. -/
def Obligations.ShrResult : Prop :=
  DecodesAs ⟨0x8006, 0xF00F⟩ (fun w => .shr (xField w) (yField w)) ∧
  (∀ (x y : Reg) (s : State), exec (.shr x y) s = .next (s.shiftRight false x y)) ∧
  ∀ (usesVy : Bool) (x y : Reg) (s t : State), t = s.shiftRight usesVy x y →
    ∀ a, a = (if usesVy = true then s.getV y else s.getV x).toNat →
    (x ≠ 15 → (t.getV x).toNat = a / 2) ∧ (t.getV 15).toNat = a % 2 ∧ Frame { regs := [x, 15] } s t

/-- R131: SHL doubles the shifted register modulo 256 into V[x] unless x is 15; VF is 0x80 when the old bit 7 was set
and else 0. Under SHL_FLAG_NORMALISED VF is 1 or 0; under SHIFT_USES_VY the register shifted is V[y]. The instruction
has both settings false. -/
def Obligations.ShlResult : Prop :=
  DecodesAs ⟨0x800E, 0xF00F⟩ (fun w => .shl (xField w) (yField w)) ∧
  (∀ (x y : Reg) (s : State), exec (.shl x y) s = .next (s.shiftLeft false false x y)) ∧
  ∀ (usesVy normalised : Bool) (x y : Reg) (s t : State), t = s.shiftLeft usesVy normalised x y →
    ∀ a, a = (if usesVy = true then s.getV y else s.getV x).toNat →
    (x ≠ 15 → (t.getV x).toNat = 2 * a % 256) ∧
    (t.getV 15).toNat = (if a < 128 then 0 else if normalised = true then 1 else 128) ∧
    Frame { regs := [x, 15] } s t

/-- Derived from R140: RND leaves the byte drawn, a free value, masked by nn in V[x], so no bit outside nn is set, and
changes no other state the spec gives. That the byte is the one at the counter draws, and that RND advances that counter
by one, is the model's choice (log 4, DESIGN CHOICE): R140 knows no counter. The statement holds whatever byte is
drawn. -/
def Obligations.RndResult : Prop :=
  DecodesAs ⟨0xC000, 0xF000⟩ (fun w => .rnd (xField w) (nnField w)) ∧
  ∀ (x : Reg) (nn : Byte) (s : State), ∃ t, exec (.rnd x nn) s = .next t ∧
    (∀ k, (t.getV x).getLsbD k = ((Config.drawByte s.draws).getLsbD k && nn.getLsbD k)) ∧
    t.getV x &&& ~~~nn = 0 ∧ t.draws = s.draws + 1 ∧ Frame { regs := [x], draws := true } s t

/-! ### Index register and memory (42_index_memory.md) -/

/-- R150 and R151: LD I, addr puts the address, zero-extended, in I; ADD I, Vx adds V[x] to I modulo 65536 and writes
no flag; neither changes anything else. -/
def Obligations.IndexRegisterResult : Prop :=
  (DecodesAs ⟨0xA000, 0xF000⟩ (fun w => .ldI (nnnField w)) ∧
  ∀ (nnn : Addr) (s : State), ∃ t, exec (.ldI nnn) s = .next t ∧ t.i.toNat = nnn.toNat ∧
    Frame { i := true } s t) ∧
  (DecodesAs ⟨0xF01E, 0xF0FF⟩ (fun w => .addI (xField w)) ∧
  ∀ (x : Reg) (s : State), ∃ t, exec (.addI x) s = .next t ∧
    t.i.toNat = (s.i.toNat + (s.getV x).toNat) % 65536 ∧ Frame { i := true } s t)

/-- R153: LD F, Vx puts FONT_BASE + 5 times the low nibble of V[x] in I (FONT_BASE = 0), whatever memory holds. -/
def Obligations.LdFResult : Prop :=
  DecodesAs ⟨0xF029, 0xF0FF⟩ (fun w => .ldF (xField w)) ∧
  ∀ (x : Reg) (s : State), ∃ t, exec (.ldF x) s = .next t ∧ t.i.toNat = 5 * ((s.getV x).toNat % 16) ∧
    Frame { i := true } s t

/-- R154: LD B, Vx stores the hundreds, tens and ones digits of V[x] at I, I + 1, I + 2 when all three are in memory,
and otherwise raises MemoryOutOfRange with the first bad address and writes nothing. -/
def Obligations.LdBResult : Prop :=
  DecodesAs ⟨0xF033, 0xF0FF⟩ (fun w => .ldB (xField w)) ∧
  (∀ (x : Reg) (s : State), s.i.toNat + 2 ≤ 4095 → ∃ t, exec (.ldB x) s = .next t ∧
    (s.mem.wf →
      (t.readByte s.i.toNat).toNat = (s.getV x).toNat / 100 ∧
      (t.readByte (s.i.toNat + 1)).toNat = (s.getV x).toNat / 10 % 10 ∧
      (t.readByte (s.i.toNat + 2)).toNat = (s.getV x).toNat % 10) ∧
    Frame { bytes := [s.i.toNat, s.i.toNat + 1, s.i.toNat + 2] } s t) ∧
  (∀ (x : Reg) (s : State), 4095 < s.i.toNat + 2 → ∃ t, exec (.ldB x) s = .next t ∧
    FaultTaken .memoryOutOfRange (s.pc - 2) (firstBad s.i) s t)

/-- R155: LD [I], Vx stores V[0] to V[x] at I to I + x when all of them are in memory, and otherwise raises
MemoryOutOfRange with nothing written. The instruction leaves I; the operation under LOADSTORE_INCREMENTS_I leaves
I + x + 1 there. -/
def Obligations.LdMemVxResult : Prop :=
  DecodesAs ⟨0xF055, 0xF0FF⟩ (fun w => .ldMemVx (xField w)) ∧
  (∀ (x : Reg) (s : State), exec (.ldMemVx x) s = saveRegs false x s) ∧
  (∀ (increments : Bool) (x : Reg) (s : State), s.i.toNat + x.val ≤ 4095 →
    ∃ t, saveRegs increments x s = .next t ∧
      (s.mem.wf → ∀ k : Reg, k.val ≤ x.val → t.readByte (s.i.toNat + k.val) = s.getV k) ∧
      t.i.toNat = (if increments = true then s.i.toNat + x.val + 1 else s.i.toNat) ∧
      Frame { bytes := (List.range (x.val + 1)).map (fun k => s.i.toNat + k), i := increments } s t) ∧
  (∀ (increments : Bool) (x : Reg) (s : State), 4095 < s.i.toNat + x.val →
    ∃ t, saveRegs increments x s = .next t ∧
      FaultTaken .memoryOutOfRange (s.pc - 2) (firstBad s.i) s t)

/-- R156: LD Vx, [I] loads V[0] to V[x] from I to I + x when all of them are in memory, leaving the other registers,
and otherwise raises MemoryOutOfRange with no register written. The instruction leaves I; the operation under
LOADSTORE_INCREMENTS_I leaves I + x + 1 there. -/
def Obligations.LdVxMemResult : Prop :=
  DecodesAs ⟨0xF065, 0xF0FF⟩ (fun w => .ldVxMem (xField w)) ∧
  (∀ (x : Reg) (s : State), exec (.ldVxMem x) s = restoreRegs false x s) ∧
  (∀ (increments : Bool) (x : Reg) (s : State), s.i.toNat + x.val ≤ 4095 →
    ∃ t, restoreRegs increments x s = .next t ∧
      (∀ k : Reg, k.val ≤ x.val → t.getV k = s.readByte (s.i.toNat + k.val)) ∧
      t.i.toNat = (if increments = true then s.i.toNat + x.val + 1 else s.i.toNat) ∧
      Frame { regs := (List.finRange 16).filter (fun k => decide (k.val ≤ x.val)), i := increments } s t) ∧
  (∀ (increments : Bool) (x : Reg) (s : State), 4095 < s.i.toNat + x.val →
    ∃ t, restoreRegs increments x s = .next t ∧
      FaultTaken .memoryOutOfRange (s.pc - 2) (firstBad s.i) s t)

/-- Derived from R155 and R156 (the spec derives it itself in R158): with the whole range in memory, a register save
then a restore leaves every register, and a restore then a save leaves every byte of memory; neither changes I. -/
def Obligations.SaveRestoreRoundTrip : Prop :=
  ∀ (x : Reg) (s : State), s.mem.wf → s.i.toNat + x.val ≤ 4095 →
    (∃ t u, exec (.ldMemVx x) s = .next t ∧ exec (.ldVxMem x) t = .next u ∧ u.i = s.i ∧
      ∀ k, u.getV k = s.getV k) ∧
    (∃ t u, exec (.ldVxMem x) s = .next t ∧ exec (.ldMemVx x) t = .next u ∧ u.i = s.i ∧
      ∀ a, u.readByte a = s.readByte a)

/-- Derived from R155, R92 and R53: when a register save writes the two bytes at pc, wherever they fall among the bytes
it stores, the very next instruction step executes the word they make. With j = pc - I they are V[j], the high byte, and
V[j + 1]. -/
def Obligations.StoredWordIsExecutedNext : Prop :=
  ∀ (x : Reg) (s t : State), s.mem.wf → s.halted = false → s.waiting = false →
    s.i.toNat ≤ s.pc.toNat → s.pc.toNat + 1 ≤ s.i.toNat + x.val → s.i.toNat + x.val ≤ 4095 →
    exec (.ldMemVx x) s = .next t →
    ∀ j k : Reg, s.i.toNat + j.val = s.pc.toNat → k.val = j.val + 1 →
      hostStep .instrStrobe t = execWord (wordOfBytes (s.getV j) (s.getV k)) { t with pc := s.pc + 2 }

/-- Derived from R41, R47, R48 and R153: while the font is intact, whatever the rest of memory holds, the five bytes at
the address LD F leaves in I are the glyph of the low nibble of V[x]: the five bytes of its digit in the font table, and
for the digits 0, 1, A and F the bytes written out here. -/
def Obligations.LdFPointsAtGlyph : Prop :=
  ∀ (x : Reg) (s : State), s.readBytes 0 80 = fontData → ∃ t, exec (.ldF x) s = .next t ∧
    t.readBytes t.i.toNat 5 = (fontData.drop (5 * ((s.getV x).toNat % 16))).take 5 ∧
    ((s.getV x).toNat % 16 = 0 → t.readBytes t.i.toNat 5 = [0xF0, 0x90, 0x90, 0x90, 0xF0]) ∧
    ((s.getV x).toNat % 16 = 1 → t.readBytes t.i.toNat 5 = [0x20, 0x60, 0x20, 0x20, 0x70]) ∧
    ((s.getV x).toNat % 16 = 10 → t.readBytes t.i.toNat 5 = [0xF0, 0x90, 0xF0, 0x90, 0x90]) ∧
    ((s.getV x).toNat % 16 = 15 → t.readBytes t.i.toNat 5 = [0xF0, 0x80, 0xF0, 0x80, 0x80])

/-! ### Display (43_display.md) -/

/-- R171: CLS clears every pixel and sets CHANGED; VF and everything else stay. -/
def Obligations.ClsResult : Prop :=
  DecodesAs ⟨0x00E0, 0xF0FF⟩ (fun _ => .cls) ∧
  ∀ s : State, ∃ t, exec .cls s = .next t ∧ (∀ p, t.disp.pixel p = false) ∧ t.changed = true ∧
    Frame { disp := true, changed := true } s t

/-- R172: DRW flips exactly the pixels that the 1 bits of the n rows from I cover at (V[x], V[y]), each wrapped modulo
64 and 32; VF is 1 exactly when one of them was lit, else 0; CHANGED is set. A row out of memory raises
MemoryOutOfRange with nothing written; a height of 0 cannot fault. -/
def Obligations.DrwResult : Prop :=
  DecodesAs ⟨0xD000, 0xF000⟩ (fun w => .drw (xField w) (yField w) (nField w)) ∧
  (∀ (x y : Reg) (n : Fin 16) (s : State), n.val = 0 ∨ s.i.toNat + n.val - 1 ≤ 4095 →
    ∃ t, exec (.drw x y n) s = .next t ∧
      (∀ p, SpriteCovers s (s.getV x) (s.getV y) s.i.toNat n p → t.disp.pixel p = !(s.disp.pixel p)) ∧
      (∀ p, ¬ SpriteCovers s (s.getV x) (s.getV y) s.i.toNat n p → t.disp.pixel p = s.disp.pixel p) ∧
      ((∃ p, SpriteCovers s (s.getV x) (s.getV y) s.i.toNat n p ∧ s.disp.pixel p = true) → t.getV 15 = 1) ∧
      ((¬ ∃ p, SpriteCovers s (s.getV x) (s.getV y) s.i.toNat n p ∧ s.disp.pixel p = true) → t.getV 15 = 0) ∧
      t.changed = true ∧ Frame { regs := [15], disp := true, changed := true } s t) ∧
  (∀ (x y : Reg) (n : Fin 16) (s : State), 0 < n.val → 4095 < s.i.toNat + n.val - 1 →
    ∃ t, exec (.drw x y n) s = .next t ∧ FaultTaken .memoryOutOfRange (s.pc - 2) (firstBad s.i) s t)

/-- Derived from R172 (the spec derives it itself in R173): two draws with the same coordinates, height, I and sprite
bytes, with nothing writing the buffer between them, leave the buffer as it was. VF after the first is 1 exactly when
a covered pixel was lit before it, and VF after the second exactly when a covered pixel was unlit before the first. -/
def Obligations.DrawTwiceIsIdentity : Prop :=
  ∀ (x y : Reg) (n : Fin 16) (s t s' u : State), n.val = 0 ∨ s.i.toNat + n.val - 1 ≤ 4095 →
    exec (.drw x y n) s = .next t →
    s'.disp = t.disp → s'.getV x = s.getV x → s'.getV y = s.getV y → s'.i = s.i →
    (∀ r, r < n.val → s'.readByte (s.i.toNat + r) = s.readByte (s.i.toNat + r)) →
    exec (.drw x y n) s' = .next u →
    u.disp = s.disp ∧
    (t.getV 15 = 1 ↔ ∃ p, SpriteCovers s (s.getV x) (s.getV y) s.i.toNat n p ∧ s.disp.pixel p = true) ∧
    (u.getV 15 = 1 ↔ ∃ p, SpriteCovers s (s.getV x) (s.getV y) s.i.toNat n p ∧ s.disp.pixel p = false) ∧
    (t.getV 15 = 1 ∨ t.getV 15 = 0) ∧ (u.getV 15 = 1 ∨ u.getV 15 = 0)

/-! ### Keypad (44_keypad.md) -/

/-- R186: SKP skips when the flag of key V[x] mod 16 is set, and leaves that flag clear. -/
def Obligations.SkpResult : Prop :=
  DecodesAs ⟨0xE09E, 0xF0FF⟩ (fun w => .skp (xField w)) ∧
  ∀ (x : Reg) (s : State) (k : Fin 16), k.val = (s.getV x).toNat % 16 →
    ∃ t, exec (.skp x) s = .next t ∧ (s.key k = true → t.pc = s.pc + 2) ∧ (s.key k = false → t.pc = s.pc) ∧
      t.key k = false ∧ Frame { pc := true, keys := [k] } s t

/-- R187: SKNP skips when the flag of key V[x] mod 16 is clear, and writes no flag. -/
def Obligations.SknpResult : Prop :=
  DecodesAs ⟨0xE0A1, 0xF0FF⟩ (fun w => .sknp (xField w)) ∧
  ∀ (x : Reg) (s : State) (k : Fin 16), k.val = (s.getV x).toNat % 16 →
    ∃ t, exec (.sknp x) s = .next t ∧ (s.key k = false → t.pc = s.pc + 2) ∧ (s.key k = true → t.pc = s.pc) ∧
      Frame { pc := true } s t

/-- Derived from R188, R90 and R195: LD Vx, K sets WAITING and WAIT_REG and nothing else. From there, over any
operations that are neither a press of a key of the pad, nor a reset, nor a load, the core goes on waiting with pc
where it was; the first press after them puts the key's number in V[x] and ends the wait. -/
def Obligations.AwaitKeyProtocol : Prop :=
  DecodesAs ⟨0xF00A, 0xF0FF⟩ (fun w => .ldVxK (xField w)) ∧
  ∀ (x : Reg) (s : State), ∃ t, exec (.ldVxK x) s = .next t ∧ t.waiting = true ∧ t.waitReg = x ∧
    Frame { latch := true } s t ∧
    ∀ ops : List HostOp, (∀ op ∈ ops, Quiet op) →
      ∃ u, runOps ops t = .next u ∧ u.waiting = true ∧ u.waitReg = x ∧ u.pc = s.pc ∧
        ∀ k : Fin 16, ∃ v, hostStep (.keyEvent k.val true) u = .next v ∧ v.waiting = false ∧ v.pc = s.pc ∧
          (v.getV x).toNat = k.val

/-- R195: a key event writes the flag of its key, and when it is a press while WAITING it puts the key's number in
V[WAIT_REG] and clears WAITING, whatever the flag was; a code above 15 changes nothing. -/
def Obligations.KeyEventResult : Prop :=
  (∀ (k : Fin 16) (pressed : Bool) (s : State), s.waiting = false ∨ pressed = false →
    ∃ t, hostStep (.keyEvent k.val pressed) s = .next t ∧ t.key k = pressed ∧ Frame { keys := [k] } s t) ∧
  (∀ (k : Fin 16) (s : State), s.waiting = true →
    ∃ t, hostStep (.keyEvent k.val true) s = .next t ∧ t.key k = true ∧
      (t.getV s.waitReg).toNat = k.val ∧ t.waiting = false ∧ t.waitReg = s.waitReg ∧
      Frame { keys := [k], regs := [s.waitReg], latch := true } s t) ∧
  (∀ (key : Nat) (pressed : Bool) (s : State), 15 < key → hostStep (.keyEvent key pressed) s = .next s)

/-- Derived from R188, R195 and R31 (the spec derives it itself in R196 a to c): while WAITING, a step that is neither
a reset nor a load leaves pc, I, the stack, memory and the display, and of the registers changes at most V[WAIT_REG],
which it changes only at a press and to a number below 16; WAITING ends exactly at a press of a key of the pad. -/
def Obligations.WaitingFreezesTheProgram : Prop :=
  ∀ s t : State, s.waiting = true → step s = .next t →
    (∀ rest, s.schedule ≠ .reset :: rest) → (∀ blob rest, s.schedule ≠ .load blob :: rest) →
    t.pc = s.pc ∧ t.i = s.i ∧ t.stack = s.stack ∧ (∀ a, t.readByte a = s.readByte a) ∧
    (∀ p, t.disp.pixel p = s.disp.pixel p) ∧ (∀ k, k ≠ s.waitReg → t.getV k = s.getV k) ∧
    (t.waiting = false ↔ ∃ k rest, k < 16 ∧ s.schedule = .keyEvent k true :: rest) ∧
    (t.waiting = true → t.getV s.waitReg = s.getV s.waitReg) ∧
    (t.waiting = false → (t.getV s.waitReg).toNat < 16)

/-- Derived from R188, R31 and R196 b: WAITING becomes 1 only in a step that executes an LD Vx, K word at pc. -/
def Obligations.OnlyAwaitKeySetsWaiting : Prop :=
  ∀ s t : State, s.waiting = false → step s = .next t → t.waiting = true →
    ∃ x, decode (wordOfBytes (s.readByte s.pc.toNat) (s.readByte (s.pc.toNat + 1))) = .ok (.ldVxK x) ∧
      t.waitReg = x ∧ s.halted = false ∧ s.pc.toNat ≤ 4094

/-! ### Timers (45_timers.md, 60_exceptions.md R222, R223) -/

/-- R200, R201, R202: LD Vx, DT copies DT to V[x]; LD DT, Vx and LD ST, Vx copy V[x] to their timer and leave the
other; none emits a strobe or changes anything else. -/
def Obligations.TimerMoveResult : Prop :=
  (DecodesAs ⟨0xF007, 0xF0FF⟩ (fun w => .ldVxDT (xField w)) ∧
  ∀ (x : Reg) (s : State), ∃ t, exec (.ldVxDT x) s = .next t ∧ t.getV x = s.dt ∧ Frame { regs := [x] } s t) ∧
  (DecodesAs ⟨0xF015, 0xF0FF⟩ (fun w => .ldDTVx (xField w)) ∧
  ∀ (x : Reg) (s : State), ∃ t, exec (.ldDTVx x) s = .next t ∧ t.dt = s.getV x ∧ Frame { dt := true } s t) ∧
  (DecodesAs ⟨0xF018, 0xF0FF⟩ (fun w => .ldSTVx (xField w)) ∧
  ∀ (x : Reg) (s : State), ∃ t, exec (.ldSTVx x) s = .next t ∧ t.st = s.getV x ∧ Frame { st := true } s t)

/-- R222: a tick lowers each timer by one, never below 0, in every run state; while ST is nonzero it emits an
accumulate strobe, and then a flush strobe when it takes ST from 1 to 0; nothing else changes. -/
def Obligations.TimerTickResult : Prop :=
  ∀ s : State, ∃ t, hostStep .timerStrobe s = .next t ∧
    t.dt.toNat = s.dt.toNat - 1 ∧ t.st.toNat = s.st.toNat - 1 ∧
    (s.st.toNat = 0 → t.outputs = s.outputs) ∧
    (s.st.toNat = 1 → t.outputs = .beepFlush :: .beepAccumulate :: s.outputs) ∧
    (1 < s.st.toNat → t.outputs = .beepAccumulate :: s.outputs) ∧
    Frame { dt := true, st := true, outputs := true } s t

/-- Derived from R222 (the spec derives it itself in R223): n ticks in a row leave each timer at its value less n, or
0; they emit as many accumulate strobes as ticks found ST nonzero, one flush exactly when ST was nonzero and is used
up, and nothing else. -/
def Obligations.TimerTicksInARow : Prop :=
  ∀ (n : Nat) (s : State), ∃ t new, runOps (List.replicate n .timerStrobe) s = .next t ∧
    t.dt.toNat = s.dt.toNat - n ∧ t.st.toNat = s.st.toNat - n ∧ t.outputs = new ++ s.outputs ∧
    new.count .beepAccumulate = min n s.st.toNat ∧
    new.count .beepFlush = (if 0 < s.st.toNat ∧ s.st.toNat ≤ n then 1 else 0) ∧
    (∀ o ∈ new, o = .beepAccumulate ∨ o = .beepFlush) ∧
    Frame { dt := true, st := true, outputs := true } s t

/-! ### Host operations (60_exceptions.md, 70_reset_and_hazards.md) -/

/-- R232: render-consume emits the frame as it stands and clears CHANGED when CHANGED is set; otherwise it does
nothing. -/
def Obligations.RenderConsumeResult : Prop :=
  (∀ s : State, s.changed = true → ∃ t, hostStep .renderConsume s = .next t ∧ t.changed = false ∧
    t.outputs = .frame s.disp :: s.outputs ∧ Frame { changed := true, outputs := true } s t) ∧
  (∀ s : State, s.changed = false → hostStep .renderConsume s = .next s)

/-- Derived from R268 and the parameters of 00_scope.md R4: a rate change changes RATE only; decreaseRate lowers it by
RATE_STEP, never below 0, and increaseRate raises it by RATE_STEP, never above RATE_MAX where there is one. That without a
RATE_MAX there is no ceiling is the model's choice (log 5, DESIGN CHOICE): R268 writes the sum under min with RATE_MAX
only. It holds for all values of the open parameters. -/
def Obligations.RateChangeResult : Prop :=
  (∀ s : State, ∃ t, hostStep .decreaseRate s = .next t ∧ t.rate = s.rate - Config.rateStep ∧
    t.tInstr = s.tInstr ∧ t.tTimer = s.tTimer ∧ Frame { gate := true } s t) ∧
  (∀ s : State, ∃ t, hostStep .increaseRate s = .next t ∧
    (∀ m, Config.rateMax = some m → t.rate = min (s.rate + Config.rateStep) m) ∧
    (Config.rateMax = none → t.rate = s.rate + Config.rateStep) ∧
    t.tInstr = s.tInstr ∧ t.tTimer = s.tTimer ∧ Frame { gate := true } s t)

/-- Derived from R265, R266 and R267: a cycle call performs at most one instruction step, when RATE is not 0 and the
exact elapsed time times RATE reaches 1000, and then at most one tick, when the elapsed time times 60 reaches 1000; a
gate that fires takes the call's time as its timestamp. With RATE = 0 no instruction step happens. That T_INSTR takes the
call's time also when the latch or a fault blocks the step, and that times are natural numbers of milliseconds, is the
model's choice (log 12, DESIGN CHOICE): R266 says that the first point is not stated. -/
def Obligations.CycleCallIsGated : Prop :=
  ∀ (now : Nat) (s : State), ∃ u t, hostStep (.cycle now) s = .next t ∧
    (s.rate ≠ 0 ∧ ((now : Int) - s.tInstr) * s.rate ≥ 1000 →
      hostStep .instrStrobe { s with tInstr := now } = .next u) ∧
    (¬ (s.rate ≠ 0 ∧ ((now : Int) - s.tInstr) * s.rate ≥ 1000) → u = s) ∧
    (((now : Int) - s.tTimer) * 60 ≥ 1000 → hostStep .timerStrobe { u with tTimer := now } = .next t) ∧
    (¬ ((now : Int) - s.tTimer) * 60 ≥ 1000 → t = u)

/-- R250 (WAIT_REG, FAULT_ADDR, FAULT_INFO and the gate's timestamps are
unspecified and not claimed, log 3): reset, at any moment, leaves memory zero but for the font, registers, I, timers,
display and keys zero, pc at 0x200, the stack empty, no wait, no fault, and RATE at DEFAULT_RATE; it emits nothing. -/
def Obligations.ResetResult : Prop :=
  ∀ s : State, ∃ t, hostStep .reset s = .next t ∧
    (∀ a, 80 ≤ a → t.readByte a = 0) ∧ t.readBytes 0 80 = fontData ∧
    (∀ k, t.getV k = 0) ∧ t.i = 0 ∧ t.pc = 0x200 ∧ t.stack = [] ∧ (∀ p, t.disp.pixel p = false) ∧
    t.changed = false ∧ (∀ k, t.key k = false) ∧ t.waiting = false ∧ t.dt = 0 ∧ t.st = 0 ∧
    t.halted = false ∧ t.fault = .none ∧ t.rate = Config.defaultRate ∧ t.outputs = s.outputs

/-- R254: a load of at most 3584 bytes answers Ok and leaves the reset state with byte i of the blob at 0x200 + i and
every other byte as reset leaves it; a longer one answers LoadError and changes nothing. -/
def Obligations.LoadResult : Prop :=
  (∀ (blob : List Byte) (s : State), blob.length ≤ 3584 →
    ∃ r t, hostStep .reset s = .next r ∧ hostStep (.load blob) s = .next t ∧
      (∀ (k : Nat) (h : k < blob.length), t.readByte (0x200 + k) = blob[k]) ∧
      (∀ a, a < 0x200 ∨ 0x200 + blob.length ≤ a → t.readByte a = r.readByte a) ∧
      t.outputs = .loadOk :: s.outputs ∧
      Frame { bytes := (List.range blob.length).map (fun k => 0x200 + k), outputs := true } r t) ∧
  (∀ (blob : List Byte) (s : State), 3584 < blob.length →
    ∃ t, hostStep (.load blob) s = .next t ∧ t.outputs = .loadError :: s.outputs ∧
      Frame { outputs := true } s t)

/-- Derived from R42, R60 and R90 (withFetchWord is the model's own, log 10): a word of the table placed with
withFetchWord, in any state, is what the very next step executes. -/
def Obligations.PlacedWordRunsNext : Prop :=
  ∀ (s : State) (w : Nat) (i : Instr), s.mem.wf → decodeTableWord 16 w = some i →
    step (s.withFetchWord 16 w) =
      exec i { s.withFetchWord 16 w with pc := (s.withFetchWord 16 w).pc + 2, schedule := s.schedule }

/-! ### Whole-machine rules -/

/-- The model's invariant is kept by every step from every state that has it (derived from R15, R16, R25 and R45; the
canonical form of memory is the model's own, log 8). -/
def Obligations.InvariantKept : Prop := ∀ s t : State, Inv s → step s = .next t → Inv t

/-- The state after reset has the invariant (derived from R250). -/
def Obligations.InvariantAtReset : Prop := Inv State.reset

/-- Derived from R56, R14, R27 and R93: which instruction may write what. Every instruction leaves memory but LD B and
LD [I]; the display and CHANGED but CLS and DRW; the key flags but SKP; the stack but CALL and RET; DT but LD DT; ST
but LD ST; I but LD I, ADD I and LD F; the latch but LD Vx, K; pc but the jumps, CALL, RET and the skips; the fault
registers but RET, CALL, DRW, LD B, LD [I] and LD Vx, [I]. None changes the gate. -/
def Obligations.WhoMayWriteWhat : Prop :=
  ∀ (i : Instr) (s t : State), exec i s = .next t →
    ((∀ x, i ≠ .ldB x ∧ i ≠ .ldMemVx x) → ∀ a, t.readByte a = s.readByte a) ∧
    ((i ≠ .cls ∧ ∀ x y n, i ≠ .drw x y n) → (∀ p, t.disp.pixel p = s.disp.pixel p) ∧ t.changed = s.changed) ∧
    ((∀ x, i ≠ .skp x) → ∀ k, t.key k = s.key k) ∧
    ((i ≠ .ret ∧ ∀ nnn, i ≠ .call nnn) → t.stack = s.stack) ∧
    ((∀ x, i ≠ .ldDTVx x) → t.dt = s.dt) ∧
    ((∀ x, i ≠ .ldSTVx x) → t.st = s.st) ∧
    ((∀ x nnn, i ≠ .ldI nnn ∧ i ≠ .addI x ∧ i ≠ .ldF x) → t.i = s.i) ∧
    ((∀ x, i ≠ .ldVxK x) → t.waiting = s.waiting ∧ t.waitReg = s.waitReg) ∧
    ((i ≠ .ret ∧ ∀ nnn x y nn, i ≠ .jp nnn ∧ i ≠ .call nnn ∧ i ≠ .jpV0 nnn ∧ i ≠ .seImm x nn ∧
      i ≠ .sneImm x nn ∧ i ≠ .seReg x y ∧ i ≠ .sneReg x y ∧ i ≠ .skp x ∧ i ≠ .sknp x) → t.pc = s.pc) ∧
    ((i ≠ .ret ∧ ∀ nnn x y n, i ≠ .call nnn ∧ i ≠ .drw x y n ∧ i ≠ .ldB x ∧ i ≠ .ldMemVx x ∧ i ≠ .ldVxMem x) →
      t.halted = s.halted ∧ t.fault = s.fault ∧ t.faultAddr = s.faultAddr ∧ t.faultInfo = s.faultInfo) ∧
    t.rate = s.rate ∧ t.tInstr = s.tInstr ∧ t.tTimer = s.tTimer

/-- Derived from R26, R141 and R172: an instruction leaves every register, VF among them, that is neither its
destination nor, for ADD Vx,Vy, SUB, SHR, SUBN, SHL and DRW, the flag register. -/
def Obligations.RegistersOutsideDestinationsKept : Prop :=
  ∀ (i : Instr) (s t : State), exec i s = .next t → ∀ k, k ∉ destRegs i → t.getV k = s.getV k

/-- Derived from R93, R211 and R213: an instruction that halts a running core has taken one of its own faults, with
its own address, and changed nothing else at all: RET only with an empty stack, CALL only with a full one, a memory
instruction only out of range. -/
def Obligations.FaultsArePrecise : Prop :=
  ∀ (i : Instr) (s t : State), exec i s = .next t → s.halted = false → t.halted = true →
    (i = .ret ∧ s.stack = [] ∧ FaultTaken .stackUnderflow (s.pc - 2) 0 s t) ∨
    (∃ nnn, i = .call nnn ∧ 16 ≤ s.stack.length ∧ FaultTaken .stackOverflow (s.pc - 2) s.pc s t) ∨
    (∃ count, 0 < count ∧ 4095 < s.i.toNat + count - 1 ∧
      FaultTaken .memoryOutOfRange (s.pc - 2) (firstBad s.i) s t ∧
      ((∃ x y n, i = .drw x y n ∧ count = n.val) ∨ (∃ x, i = .ldB x ∧ count = 3) ∨
        (∃ x, (i = .ldMemVx x ∨ i = .ldVxMem x) ∧ count = x.val + 1)))

/-- Derived from R213, R215 and R237: a halted core stays halted, with its fault registers, through every step that is
neither a reset nor a load of a blob that fits; of the rest only DT, ST, the key flags, CHANGED and the gate can
change. The premise that it is not waiting is the invariant of R25 (InvariantKept). -/
def Obligations.HaltedIsFrozen : Prop :=
  ∀ s t : State, s.halted = true → s.waiting = false → step s = .next t →
    (∀ rest, s.schedule ≠ .reset :: rest) →
    (∀ blob rest, s.schedule = .load blob :: rest → 3584 < blob.length) →
    t.halted = true ∧
    Frame { keys := List.finRange 16, dt := true, st := true, changed := true, gate := true, schedule := true,
            outputs := true } s t

/-- Derived from R171, R172 and R174: CHANGED, once set, is cleared by nothing but a render-consume, a reset or a load (which resets); CLS and
every DRW whose sprite is in memory set it. -/
def Obligations.OnlyTheHostClearsChanged : Prop :=
  (∀ s t : State, s.changed = true → step s = .next t → t.changed = false →
    ∃ rest, s.schedule = .renderConsume :: rest ∨ s.schedule = .reset :: rest ∨
      ∃ blob, s.schedule = .load blob :: rest) ∧
  (∀ s t : State, exec .cls s = .next t → t.changed = true) ∧
  (∀ (x y : Reg) (n : Fin 16) (s t : State), n.val = 0 ∨ s.i.toNat + n.val - 1 ≤ 4095 →
    exec (.drw x y n) s = .next t → t.changed = true)

/-- Derived from R7 and R11: operands are read before results are written and the flag is written last. ADD VF, Vy
leaves the carry of the old VF and V[y]; ADD Vx, VF adds the old VF; ADD Vx, Vx with x not 15 doubles the register. -/
def Obligations.FlagRegisterAsOperand : Prop :=
  ∀ s : State,
    (∀ y, ∃ t, exec (.addReg 15 y) s = .next t ∧
      (t.getV 15).toNat = ((s.getV 15).toNat + (s.getV y).toNat) / 256) ∧
    (∀ x, x ≠ 15 → ∃ t, exec (.addReg x 15) s = .next t ∧
      (t.getV 15).toNat * 256 + (t.getV x).toNat = (s.getV x).toNat + (s.getV 15).toNat) ∧
    (∀ x, x ≠ 15 → ∃ t, exec (.addReg x x) s = .next t ∧
      (t.getV 15).toNat * 256 + (t.getV x).toNat = 2 * (s.getV x).toNat)
end

