-- ==== Sys2Proof/Laws/Encoding.lean ====
section
/-!
SUPPORT. The words of each format and the fields of a word (30_encoding.md R61, R62), as numbers and bit by bit: every
field of a built word comes back whole.
-/

namespace Sys2Proof

/-! ### Words of a format as numbers -/

theorem toNat_wordA (op : BitVec 4) (nnn : Addr) : (wordA op nnn).toNat = op.toNat * 4096 + nnn.toNat := by
  have h : (wordA op nnn).toNat = _ := BitVec.toNat_append ..
  rw [h, ← Nat.shiftLeft_add_eq_or_of_lt nnn.isLt, Nat.shiftLeft_eq]

theorem toNat_wordXB (op : BitVec 4) (x : Reg) (nn : Byte) :
    (wordXB op x nn).toNat = op.toNat * 4096 + (x.val * 256 + nn.toNat) := by
  have h : (wordXB op x nn).toNat = _ := BitVec.toNat_append ..
  have h' : ((BitVec.ofFin x : BitVec 4) ++ nn).toNat = x.val * 256 + nn.toNat := by
    rw [BitVec.toNat_append, ← Nat.shiftLeft_add_eq_or_of_lt nn.isLt, Nat.shiftLeft_eq]
    rfl
  rw [h, ← Nat.shiftLeft_add_eq_or_of_lt (BitVec.isLt _), Nat.shiftLeft_eq, h']

theorem toNat_wordXY (op : BitVec 4) (x y : Reg) (n : Fin 16) :
    (wordXY op x y n).toNat = op.toNat * 4096 + (x.val * 256 + (y.val * 16 + n.val)) := by
  have h : (wordXY op x y n).toNat = _ := BitVec.toNat_append ..
  have h1 : ((BitVec.ofFin y : BitVec 4) ++ (BitVec.ofFin n : BitVec 4)).toNat = y.val * 16 + n.val := by
    rw [BitVec.toNat_append, ← Nat.shiftLeft_add_eq_or_of_lt (BitVec.isLt _), Nat.shiftLeft_eq]
    rfl
  have h2 : ((BitVec.ofFin x : BitVec 4) ++ ((BitVec.ofFin y : BitVec 4) ++ (BitVec.ofFin n : BitVec 4))).toNat =
      x.val * 256 + (y.val * 16 + n.val) := by
    rw [BitVec.toNat_append, ← Nat.shiftLeft_add_eq_or_of_lt (BitVec.isLt _), Nat.shiftLeft_eq, h1]
    rfl
  rw [h, ← Nat.shiftLeft_add_eq_or_of_lt (BitVec.isLt _), Nat.shiftLeft_eq, h2]

theorem toNat_wordOfBytes (hi lo : Byte) : (wordOfBytes hi lo).toNat = hi.toNat * 256 + lo.toNat := by
  have h : (wordOfBytes hi lo).toNat = _ := BitVec.toNat_append ..
  rw [h, ← Nat.shiftLeft_add_eq_or_of_lt lo.isLt, Nat.shiftLeft_eq]

/-! ### The fields of a word as numbers -/

theorem val_opField (w : Word) : (opField w).val = w.toNat / 4096 := by
  have := w.isLt
  simp [opField, Nat.shiftRight_eq_div_pow]
  omega

theorem val_xField (w : Word) : (xField w).val = w.toNat / 256 % 16 := by
  simp [xField, Nat.shiftRight_eq_div_pow]

theorem val_yField (w : Word) : (yField w).val = w.toNat / 16 % 16 := by
  simp [yField, Nat.shiftRight_eq_div_pow]

theorem val_nField (w : Word) : (nField w).val = w.toNat % 16 := by
  simp [nField]

theorem toNat_nnField (w : Word) : (nnField w).toNat = w.toNat % 256 := by
  simp [nnField]

theorem toNat_nnnField (w : Word) : (nnnField w).toNat = w.toNat % 4096 := by
  simp [nnnField]

theorem toNat_highByte (w : Word) : (highByte w).toNat = w.toNat / 256 := by
  have := w.isLt
  simp [highByte, Nat.shiftRight_eq_div_pow]
  omega

theorem toNat_lowByte (w : Word) : (lowByte w).toNat = w.toNat % 256 := by
  simp [lowByte]

/-! ### The fields of a built word -/

theorem opField_wordA (op : BitVec 4) (nnn : Addr) : (opField (wordA op nnn)).val = op.toNat := by
  have := nnn.isLt
  rw [val_opField, toNat_wordA]
  omega

theorem nnnField_wordA (op : BitVec 4) (nnn : Addr) : nnnField (wordA op nnn) = nnn := by
  have := nnn.isLt
  apply BitVec.eq_of_toNat_eq
  rw [toNat_nnnField, toNat_wordA]
  omega

theorem nnField_wordA (op : BitVec 4) (nnn : Addr) : nnField (wordA op nnn) = nnn.extractLsb' 0 8 := by
  apply BitVec.eq_of_toNat_eq
  rw [toNat_nnField, toNat_wordA]
  simp
  omega

theorem opField_wordXB (op : BitVec 4) (x : Reg) (nn : Byte) : (opField (wordXB op x nn)).val = op.toNat := by
  have := nn.isLt
  have := x.isLt
  rw [val_opField, toNat_wordXB]
  omega

theorem xField_wordXB (op : BitVec 4) (x : Reg) (nn : Byte) : xField (wordXB op x nn) = x := by
  have := nn.isLt
  have := x.isLt
  apply Fin.ext
  rw [val_xField, toNat_wordXB]
  omega

theorem nnField_wordXB (op : BitVec 4) (x : Reg) (nn : Byte) : nnField (wordXB op x nn) = nn := by
  have := nn.isLt
  apply BitVec.eq_of_toNat_eq
  rw [toNat_nnField, toNat_wordXB]
  omega

theorem opField_wordXY (op : BitVec 4) (x y : Reg) (n : Fin 16) :
    (opField (wordXY op x y n)).val = op.toNat := by
  rw [val_opField, toNat_wordXY]
  omega

theorem xField_wordXY (op : BitVec 4) (x y : Reg) (n : Fin 16) : xField (wordXY op x y n) = x := by
  apply Fin.ext
  rw [val_xField, toNat_wordXY]
  omega

theorem yField_wordXY (op : BitVec 4) (x y : Reg) (n : Fin 16) : yField (wordXY op x y n) = y := by
  apply Fin.ext
  rw [val_yField, toNat_wordXY]
  omega

theorem nField_wordXY (op : BitVec 4) (x y : Reg) (n : Fin 16) : nField (wordXY op x y n) = n := by
  apply Fin.ext
  rw [val_nField, toNat_wordXY]
  omega

/-- A word's two bytes, high byte first, make the word again (20_memory.md R42). -/
theorem wordOfBytes_high_low (w : Word) : wordOfBytes (highByte w) (lowByte w) = w := by
  apply BitVec.eq_of_toNat_eq
  rw [toNat_wordOfBytes, toNat_highByte, toNat_lowByte]
  omega

/-! ### Masks of the opcode map (30_encoding.md R66) -/

/-- The mask 0xF000 keeps the group nibble. -/
theorem and_groupMask (w : Word) : (w &&& 0xF000#16).toNat = w.toNat / 4096 * 4096 := by
  have h : w &&& 0xF000#16 = (w >>> 12) <<< 12 := by
    apply BitVec.eq_of_getLsbD_eq
    intro i hi
    interval_cases i <;> simp
  have := w.isLt
  rw [h]
  simp [Nat.shiftRight_eq_div_pow, Nat.shiftLeft_eq]
  omega

/-- The mask 0xF00F keeps the group nibble and the low nibble. -/
theorem and_nibbleMask (w : Word) : (w &&& 0xF00F#16).toNat = w.toNat / 4096 * 4096 + w.toNat % 16 := by
  have h : w &&& 0xF00F#16 = ((w >>> 12) <<< 12) ||| (w &&& 15#16) := by
    apply BitVec.eq_of_getLsbD_eq
    intro i hi
    interval_cases i <;> simp
  have h' : (w &&& 15#16).toNat = w.toNat % 16 := by simpa using Nat.and_two_pow_sub_one_eq_mod w.toNat 4
  have := w.isLt
  rw [h, BitVec.toNat_or, h', BitVec.toNat_shiftLeft, BitVec.toNat_ushiftRight,
    Nat.shiftRight_eq_div_pow, Nat.mod_eq_of_lt (by rw [Nat.shiftLeft_eq]; omega),
    ← Nat.shiftLeft_add_eq_or_of_lt (by omega), Nat.shiftLeft_eq]

/-- The mask 0xF0FF keeps the group nibble and the low byte. -/
theorem and_byteMask (w : Word) : (w &&& 0xF0FF#16).toNat = w.toNat / 4096 * 4096 + w.toNat % 256 := by
  have h : w &&& 0xF0FF#16 = ((w >>> 12) <<< 12) ||| (w &&& 255#16) := by
    apply BitVec.eq_of_getLsbD_eq
    intro i hi
    interval_cases i <;> simp
  have h' : (w &&& 255#16).toNat = w.toNat % 256 := by simpa using Nat.and_two_pow_sub_one_eq_mod w.toNat 8
  have := w.isLt
  rw [h, BitVec.toNat_or, h', BitVec.toNat_shiftLeft, BitVec.toNat_ushiftRight,
    Nat.shiftRight_eq_div_pow, Nat.mod_eq_of_lt (by rw [Nat.shiftLeft_eq]; omega),
    ← Nat.shiftLeft_add_eq_or_of_lt (by omega), Nat.shiftLeft_eq]

/-! ### What a word that matches a row has in its fields -/

/-- A word of a row with mask 0xF000 is of the row's group. -/
theorem opField_of_groupRow {w p : Word} {op : Nat} (h : OpcodeRow.Matches ⟨p, 0xF000⟩ w)
    (hp : p.toNat = op * 4096) : (opField w).val = op := by
  have h1 : (w &&& 0xF000#16).toNat = p.toNat := congrArg BitVec.toNat h
  rw [and_groupMask, ← val_opField] at h1
  omega

/-- A word of a row with mask 0xF0FF has the row's group and low byte. -/
theorem fields_of_byteRow {w p : Word} {op sub : Nat} (h : OpcodeRow.Matches ⟨p, 0xF0FF⟩ w)
    (hp : p.toNat = op * 4096 + sub) (hs : sub < 256) : (opField w).val = op ∧ (nnField w).toNat = sub := by
  have h1 : (w &&& 0xF0FF#16).toNat = p.toNat := congrArg BitVec.toNat h
  have := (nnField w).isLt
  rw [and_byteMask, ← val_opField, ← toNat_nnField] at h1
  omega

/-- A word of a row with mask 0xF00F has the row's group and low nibble. -/
theorem fields_of_nibbleRow {w p : Word} {op n : Nat} (h : OpcodeRow.Matches ⟨p, 0xF00F⟩ w)
    (hp : p.toNat = op * 4096 + n) (hn : n < 16) : (opField w).val = op ∧ (nField w).val = n := by
  have h1 : (w &&& 0xF00F#16).toNat = p.toNat := congrArg BitVec.toNat h
  have := (nField w).isLt
  rw [and_nibbleMask, ← val_opField, ← val_nField] at h1
  omega

end Sys2Proof
end

