-- ==== Sys2Proof/Laws/Memory.lean ====
section
/-!
SUPPORT. The laws of memory: what a read gives after a write, and that every memory operation keeps the canonical
form (log 8).
-/

namespace Sys2Proof.Machine

/-- The part of the canonical form that reads depend on: addresses strictly rise. -/
abbrev Memory.Sorted (m : Memory) : Prop := m.Pairwise (fun c d => c.1 < d.1)

theorem Memory.wf_nil : Memory.wf [] := ⟨List.Pairwise.nil, fun _ h => nomatch h⟩

theorem Memory.read_of_below (m : Memory) (a : Nat) (h : ∀ c ∈ m, a < c.1) : m.read a = initialByte a := by
  induction m with
  | nil => rfl
  | cons c rest ih =>
    have hc : a < c.1 := h c (by simp)
    have : c.1 ≠ a := by omega
    simp [Memory.read, this, ih (fun d hd => h d (by simp [hd]))]

theorem Memory.mem_write {m : Memory} {a : Nat} {v : Byte} {c : Host.Cell} (h : c ∈ m.write a v) :
    c = (a, v) ∧ v ≠ initialByte a ∨ c ∈ m := by
  induction m with
  | nil =>
    simp only [Memory.write] at h
    split at h <;> simp_all
  | cons d rest ih =>
    simp only [Memory.write] at h
    split at h
    · split at h <;> simp_all
    · split at h
      · split at h
        · exact .inr (by simp [h])
        · rcases List.mem_cons.1 h with rfl | h
          · exact .inl ⟨rfl, ‹_›⟩
          · exact .inr (by simp [h])
      · rcases List.mem_cons.1 h with rfl | h
        · exact .inr (by simp)
        · exact (ih h).imp_right (by simp +contextual)

theorem Memory.read_write_same {m : Memory} (h : m.Sorted) (a : Nat) (v : Byte) : (m.write a v).read a = v := by
  induction m with
  | nil =>
    simp only [Memory.write]
    split <;> simp_all [Memory.read]
  | cons d rest ih =>
    obtain ⟨hd, hr⟩ := List.pairwise_cons.1 h
    simp only [Memory.write]
    split
    · split
      · rename_i hlt hv
        rw [hv]
        refine Memory.read_of_below _ a fun c hc => ?_
        rcases List.mem_cons.1 hc with rfl | hc
        · exact hlt
        · exact hlt.trans (hd c hc)
      · simp [Memory.read]
    · split
      · rename_i heq
        split
        · rename_i hv
          rw [hv]
          exact Memory.read_of_below _ a fun c hc => heq ▸ hd c hc
        · simp [Memory.read]
      · rename_i hne
        simp [Memory.read, Ne.symm hne, ih hr]

theorem Memory.read_write_other (m : Memory) {a b : Nat} (v : Byte) (h : b ≠ a) :
    (m.write a v).read b = m.read b := by
  induction m with
  | nil =>
    simp only [Memory.write]
    split <;> simp [Memory.read, Ne.symm h]
  | cons d rest ih =>
    simp only [Memory.write]
    split
    · split <;> simp [Memory.read, Ne.symm h]
    · split
      · rename_i heq
        split <;> simp [Memory.read, ← heq, Ne.symm h]
      · simp only [Memory.read, ih]

theorem Memory.write_sorted {m : Memory} (h : m.Sorted) (a : Nat) (v : Byte) : (m.write a v).Sorted := by
  induction m with
  | nil =>
    simp only [Memory.write]
    split <;> simp
  | cons d rest ih =>
    obtain ⟨hd, hr⟩ := List.pairwise_cons.1 h
    simp only [Memory.write]
    split
    · rename_i hlt
      split
      · exact h
      · refine List.pairwise_cons.2 ⟨fun c hc => ?_, h⟩
        rcases List.mem_cons.1 hc with rfl | hc
        · exact hlt
        · exact hlt.trans (hd c hc)
    · rename_i hge
      split
      · rename_i heq
        split
        · exact hr
        · exact List.pairwise_cons.2 ⟨fun c hc => heq ▸ hd c hc, hr⟩
      · rename_i hne
        refine List.pairwise_cons.2 ⟨fun c hc => ?_, ih hr⟩
        rcases Memory.mem_write hc with ⟨rfl, -⟩ | hc
        · show d.1 < a
          omega
        · exact hd c hc

/-- A write inside memory keeps the canonical form. -/
theorem Memory.write_wf {m : Memory} (h : m.wf) {a : Nat} (ha : a < 4096) (v : Byte) : (m.write a v).wf := by
  refine ⟨Memory.write_sorted h.1 a v, fun c hc => ?_⟩
  rcases Memory.mem_write hc with ⟨rfl, hv⟩ | hc
  · exact ⟨ha, hv⟩
  · exact h.2 c hc

theorem Memory.writeBytes_sorted {m : Memory} (h : m.Sorted) (base : Nat) (bs : List Byte) :
    (m.writeBytes base bs).Sorted := by
  induction bs generalizing m base with
  | nil => exact h
  | cons b bs ih => exact ih (Memory.write_sorted h base b) (base + 1)

/-- Storing bytes inside memory keeps the canonical form. -/
theorem Memory.writeBytes_wf {m : Memory} (h : m.wf) {base : Nat} {bs : List Byte}
    (hb : base + bs.length ≤ 4096) : (m.writeBytes base bs).wf := by
  induction bs generalizing m base with
  | nil => exact h
  | cons b bs ih =>
    rw [List.length_cons] at hb
    exact ih (Memory.write_wf h (by omega) b) (by omega)

/-- Storing bytes leaves every address outside theirs alone, in canonical form or not. -/
theorem Memory.read_writeBytes_other (m : Memory) {base a : Nat} {bs : List Byte}
    (h : a < base ∨ base + bs.length ≤ a) : (m.writeBytes base bs).read a = m.read a := by
  induction bs generalizing m base with
  | nil => rfl
  | cons b bs ih =>
    rw [List.length_cons] at h
    rw [Memory.writeBytes, ih _ (by omega), Memory.read_write_other _ _ (by omega)]

/-- Storing bytes puts each at its address. -/
theorem Memory.read_writeBytes_inside {m : Memory} (h : m.Sorted) {base k : Nat} {bs : List Byte}
    (hk : k < bs.length) : (m.writeBytes base bs).read (base + k) = bs[k] := by
  induction bs generalizing m base k with
  | nil => simp at hk
  | cons b bs ih =>
    rw [Memory.writeBytes]
    cases k with
    | zero =>
      rw [Memory.read_writeBytes_other _ (by omega)]
      simpa using Memory.read_write_same h base b
    | succ k =>
      rw [List.length_cons] at hk
      have := ih (Memory.write_sorted h base b) (base := base + 1) (k := k) (by omega)
      rw [show base + (k + 1) = base + 1 + k by omega, this]
      simp

/-! ### The same of a state -/

theorem State.readByte_writeBytes_inside {s : State} (h : s.mem.wf) {base k : Nat} {bs : List Byte}
    (hk : k < bs.length) : (s.writeBytes base bs).readByte (base + k) = bs[k] :=
  Memory.read_writeBytes_inside h.1 hk

theorem State.readByte_writeBytes_other (s : State) {base a : Nat} {bs : List Byte}
    (h : a < base ∨ base + bs.length ≤ a) : (s.writeBytes base bs).readByte a = s.readByte a :=
  Memory.read_writeBytes_other _ h

/-- Memory after reset is in canonical form. -/
theorem State.reset_mem_wf : State.reset.mem.wf := Memory.wf_nil

end Sys2Proof.Machine
end

