-- ==== Sys2Proof/Laws/State.lean ====
section
/-!
SUPPORT. One lemma per field per update of the state, each true by rfl, so that no later proof unfolds a record
update; and what reading a register or a key gives after writing one.
-/

namespace Sys2Proof.Machine

/-! ### setV -/

@[simp] theorem State.setV_i (s : State) (x : Reg) (b : Byte) : (s.setV x b).i = s.i := rfl
@[simp] theorem State.setV_pc (s : State) (x : Reg) (b : Byte) : (s.setV x b).pc = s.pc := rfl
@[simp] theorem State.setV_stack (s : State) (x : Reg) (b : Byte) : (s.setV x b).stack = s.stack := rfl
@[simp] theorem State.setV_mem (s : State) (x : Reg) (b : Byte) : (s.setV x b).mem = s.mem := rfl
@[simp] theorem State.setV_disp (s : State) (x : Reg) (b : Byte) : (s.setV x b).disp = s.disp := rfl
@[simp] theorem State.setV_changed (s : State) (x : Reg) (b : Byte) : (s.setV x b).changed = s.changed := rfl
@[simp] theorem State.setV_keys (s : State) (x : Reg) (b : Byte) : (s.setV x b).keys = s.keys := rfl
@[simp] theorem State.setV_waiting (s : State) (x : Reg) (b : Byte) : (s.setV x b).waiting = s.waiting := rfl
@[simp] theorem State.setV_waitReg (s : State) (x : Reg) (b : Byte) : (s.setV x b).waitReg = s.waitReg := rfl
@[simp] theorem State.setV_dt (s : State) (x : Reg) (b : Byte) : (s.setV x b).dt = s.dt := rfl
@[simp] theorem State.setV_st (s : State) (x : Reg) (b : Byte) : (s.setV x b).st = s.st := rfl
@[simp] theorem State.setV_halted (s : State) (x : Reg) (b : Byte) : (s.setV x b).halted = s.halted := rfl
@[simp] theorem State.setV_fault (s : State) (x : Reg) (b : Byte) : (s.setV x b).fault = s.fault := rfl
@[simp] theorem State.setV_faultAddr (s : State) (x : Reg) (b : Byte) : (s.setV x b).faultAddr = s.faultAddr := rfl
@[simp] theorem State.setV_faultInfo (s : State) (x : Reg) (b : Byte) : (s.setV x b).faultInfo = s.faultInfo := rfl
@[simp] theorem State.setV_rate (s : State) (x : Reg) (b : Byte) : (s.setV x b).rate = s.rate := rfl
@[simp] theorem State.setV_tInstr (s : State) (x : Reg) (b : Byte) : (s.setV x b).tInstr = s.tInstr := rfl
@[simp] theorem State.setV_tTimer (s : State) (x : Reg) (b : Byte) : (s.setV x b).tTimer = s.tTimer := rfl
@[simp] theorem State.setV_draws (s : State) (x : Reg) (b : Byte) : (s.setV x b).draws = s.draws := rfl
@[simp] theorem State.setV_schedule (s : State) (x : Reg) (b : Byte) : (s.setV x b).schedule = s.schedule := rfl
@[simp] theorem State.setV_outputs (s : State) (x : Reg) (b : Byte) : (s.setV x b).outputs = s.outputs := rfl

/-! ### setResultThenFlag -/

@[simp] theorem State.setResultThenFlag_i (s : State) (x : Reg) (r f : Byte) : (s.setResultThenFlag x r f).i = s.i := rfl
@[simp] theorem State.setResultThenFlag_pc (s : State) (x : Reg) (r f : Byte) : (s.setResultThenFlag x r f).pc = s.pc := rfl
@[simp] theorem State.setResultThenFlag_stack (s : State) (x : Reg) (r f : Byte) : (s.setResultThenFlag x r f).stack = s.stack := rfl
@[simp] theorem State.setResultThenFlag_mem (s : State) (x : Reg) (r f : Byte) : (s.setResultThenFlag x r f).mem = s.mem := rfl
@[simp] theorem State.setResultThenFlag_disp (s : State) (x : Reg) (r f : Byte) : (s.setResultThenFlag x r f).disp = s.disp := rfl
@[simp] theorem State.setResultThenFlag_changed (s : State) (x : Reg) (r f : Byte) : (s.setResultThenFlag x r f).changed = s.changed := rfl
@[simp] theorem State.setResultThenFlag_keys (s : State) (x : Reg) (r f : Byte) : (s.setResultThenFlag x r f).keys = s.keys := rfl
@[simp] theorem State.setResultThenFlag_waiting (s : State) (x : Reg) (r f : Byte) : (s.setResultThenFlag x r f).waiting = s.waiting := rfl
@[simp] theorem State.setResultThenFlag_waitReg (s : State) (x : Reg) (r f : Byte) : (s.setResultThenFlag x r f).waitReg = s.waitReg := rfl
@[simp] theorem State.setResultThenFlag_dt (s : State) (x : Reg) (r f : Byte) : (s.setResultThenFlag x r f).dt = s.dt := rfl
@[simp] theorem State.setResultThenFlag_st (s : State) (x : Reg) (r f : Byte) : (s.setResultThenFlag x r f).st = s.st := rfl
@[simp] theorem State.setResultThenFlag_halted (s : State) (x : Reg) (r f : Byte) : (s.setResultThenFlag x r f).halted = s.halted := rfl
@[simp] theorem State.setResultThenFlag_fault (s : State) (x : Reg) (r f : Byte) : (s.setResultThenFlag x r f).fault = s.fault := rfl
@[simp] theorem State.setResultThenFlag_faultAddr (s : State) (x : Reg) (r f : Byte) : (s.setResultThenFlag x r f).faultAddr = s.faultAddr := rfl
@[simp] theorem State.setResultThenFlag_faultInfo (s : State) (x : Reg) (r f : Byte) : (s.setResultThenFlag x r f).faultInfo = s.faultInfo := rfl
@[simp] theorem State.setResultThenFlag_rate (s : State) (x : Reg) (r f : Byte) : (s.setResultThenFlag x r f).rate = s.rate := rfl
@[simp] theorem State.setResultThenFlag_tInstr (s : State) (x : Reg) (r f : Byte) : (s.setResultThenFlag x r f).tInstr = s.tInstr := rfl
@[simp] theorem State.setResultThenFlag_tTimer (s : State) (x : Reg) (r f : Byte) : (s.setResultThenFlag x r f).tTimer = s.tTimer := rfl
@[simp] theorem State.setResultThenFlag_draws (s : State) (x : Reg) (r f : Byte) : (s.setResultThenFlag x r f).draws = s.draws := rfl
@[simp] theorem State.setResultThenFlag_schedule (s : State) (x : Reg) (r f : Byte) : (s.setResultThenFlag x r f).schedule = s.schedule := rfl
@[simp] theorem State.setResultThenFlag_outputs (s : State) (x : Reg) (r f : Byte) : (s.setResultThenFlag x r f).outputs = s.outputs := rfl

/-! ### writeByte -/

@[simp] theorem State.writeByte_v (s : State) (a : Nat) (b : Byte) : (s.writeByte a b).v = s.v := rfl
@[simp] theorem State.writeByte_i (s : State) (a : Nat) (b : Byte) : (s.writeByte a b).i = s.i := rfl
@[simp] theorem State.writeByte_pc (s : State) (a : Nat) (b : Byte) : (s.writeByte a b).pc = s.pc := rfl
@[simp] theorem State.writeByte_stack (s : State) (a : Nat) (b : Byte) : (s.writeByte a b).stack = s.stack := rfl
@[simp] theorem State.writeByte_mem (s : State) (a : Nat) (b : Byte) : (s.writeByte a b).mem = s.mem.write a b := rfl
@[simp] theorem State.writeByte_disp (s : State) (a : Nat) (b : Byte) : (s.writeByte a b).disp = s.disp := rfl
@[simp] theorem State.writeByte_changed (s : State) (a : Nat) (b : Byte) : (s.writeByte a b).changed = s.changed := rfl
@[simp] theorem State.writeByte_keys (s : State) (a : Nat) (b : Byte) : (s.writeByte a b).keys = s.keys := rfl
@[simp] theorem State.writeByte_waiting (s : State) (a : Nat) (b : Byte) : (s.writeByte a b).waiting = s.waiting := rfl
@[simp] theorem State.writeByte_waitReg (s : State) (a : Nat) (b : Byte) : (s.writeByte a b).waitReg = s.waitReg := rfl
@[simp] theorem State.writeByte_dt (s : State) (a : Nat) (b : Byte) : (s.writeByte a b).dt = s.dt := rfl
@[simp] theorem State.writeByte_st (s : State) (a : Nat) (b : Byte) : (s.writeByte a b).st = s.st := rfl
@[simp] theorem State.writeByte_halted (s : State) (a : Nat) (b : Byte) : (s.writeByte a b).halted = s.halted := rfl
@[simp] theorem State.writeByte_fault (s : State) (a : Nat) (b : Byte) : (s.writeByte a b).fault = s.fault := rfl
@[simp] theorem State.writeByte_faultAddr (s : State) (a : Nat) (b : Byte) : (s.writeByte a b).faultAddr = s.faultAddr := rfl
@[simp] theorem State.writeByte_faultInfo (s : State) (a : Nat) (b : Byte) : (s.writeByte a b).faultInfo = s.faultInfo := rfl
@[simp] theorem State.writeByte_rate (s : State) (a : Nat) (b : Byte) : (s.writeByte a b).rate = s.rate := rfl
@[simp] theorem State.writeByte_tInstr (s : State) (a : Nat) (b : Byte) : (s.writeByte a b).tInstr = s.tInstr := rfl
@[simp] theorem State.writeByte_tTimer (s : State) (a : Nat) (b : Byte) : (s.writeByte a b).tTimer = s.tTimer := rfl
@[simp] theorem State.writeByte_draws (s : State) (a : Nat) (b : Byte) : (s.writeByte a b).draws = s.draws := rfl
@[simp] theorem State.writeByte_schedule (s : State) (a : Nat) (b : Byte) : (s.writeByte a b).schedule = s.schedule := rfl
@[simp] theorem State.writeByte_outputs (s : State) (a : Nat) (b : Byte) : (s.writeByte a b).outputs = s.outputs := rfl

/-! ### writeBytes -/

@[simp] theorem State.writeBytes_v (s : State) (a : Nat) (bs : List Byte) : (s.writeBytes a bs).v = s.v := rfl
@[simp] theorem State.writeBytes_i (s : State) (a : Nat) (bs : List Byte) : (s.writeBytes a bs).i = s.i := rfl
@[simp] theorem State.writeBytes_pc (s : State) (a : Nat) (bs : List Byte) : (s.writeBytes a bs).pc = s.pc := rfl
@[simp] theorem State.writeBytes_stack (s : State) (a : Nat) (bs : List Byte) : (s.writeBytes a bs).stack = s.stack := rfl
@[simp] theorem State.writeBytes_mem (s : State) (a : Nat) (bs : List Byte) : (s.writeBytes a bs).mem = s.mem.writeBytes a bs := rfl
@[simp] theorem State.writeBytes_disp (s : State) (a : Nat) (bs : List Byte) : (s.writeBytes a bs).disp = s.disp := rfl
@[simp] theorem State.writeBytes_changed (s : State) (a : Nat) (bs : List Byte) : (s.writeBytes a bs).changed = s.changed := rfl
@[simp] theorem State.writeBytes_keys (s : State) (a : Nat) (bs : List Byte) : (s.writeBytes a bs).keys = s.keys := rfl
@[simp] theorem State.writeBytes_waiting (s : State) (a : Nat) (bs : List Byte) : (s.writeBytes a bs).waiting = s.waiting := rfl
@[simp] theorem State.writeBytes_waitReg (s : State) (a : Nat) (bs : List Byte) : (s.writeBytes a bs).waitReg = s.waitReg := rfl
@[simp] theorem State.writeBytes_dt (s : State) (a : Nat) (bs : List Byte) : (s.writeBytes a bs).dt = s.dt := rfl
@[simp] theorem State.writeBytes_st (s : State) (a : Nat) (bs : List Byte) : (s.writeBytes a bs).st = s.st := rfl
@[simp] theorem State.writeBytes_halted (s : State) (a : Nat) (bs : List Byte) : (s.writeBytes a bs).halted = s.halted := rfl
@[simp] theorem State.writeBytes_fault (s : State) (a : Nat) (bs : List Byte) : (s.writeBytes a bs).fault = s.fault := rfl
@[simp] theorem State.writeBytes_faultAddr (s : State) (a : Nat) (bs : List Byte) : (s.writeBytes a bs).faultAddr = s.faultAddr := rfl
@[simp] theorem State.writeBytes_faultInfo (s : State) (a : Nat) (bs : List Byte) : (s.writeBytes a bs).faultInfo = s.faultInfo := rfl
@[simp] theorem State.writeBytes_rate (s : State) (a : Nat) (bs : List Byte) : (s.writeBytes a bs).rate = s.rate := rfl
@[simp] theorem State.writeBytes_tInstr (s : State) (a : Nat) (bs : List Byte) : (s.writeBytes a bs).tInstr = s.tInstr := rfl
@[simp] theorem State.writeBytes_tTimer (s : State) (a : Nat) (bs : List Byte) : (s.writeBytes a bs).tTimer = s.tTimer := rfl
@[simp] theorem State.writeBytes_draws (s : State) (a : Nat) (bs : List Byte) : (s.writeBytes a bs).draws = s.draws := rfl
@[simp] theorem State.writeBytes_schedule (s : State) (a : Nat) (bs : List Byte) : (s.writeBytes a bs).schedule = s.schedule := rfl
@[simp] theorem State.writeBytes_outputs (s : State) (a : Nat) (bs : List Byte) : (s.writeBytes a bs).outputs = s.outputs := rfl

/-! ### setRegs -/

@[simp] theorem State.setRegs_v (s : State) (bs : List Byte) : (s.setRegs bs).v = setFrom s.v 0 bs := rfl
@[simp] theorem State.setRegs_i (s : State) (bs : List Byte) : (s.setRegs bs).i = s.i := rfl
@[simp] theorem State.setRegs_pc (s : State) (bs : List Byte) : (s.setRegs bs).pc = s.pc := rfl
@[simp] theorem State.setRegs_stack (s : State) (bs : List Byte) : (s.setRegs bs).stack = s.stack := rfl
@[simp] theorem State.setRegs_mem (s : State) (bs : List Byte) : (s.setRegs bs).mem = s.mem := rfl
@[simp] theorem State.setRegs_disp (s : State) (bs : List Byte) : (s.setRegs bs).disp = s.disp := rfl
@[simp] theorem State.setRegs_changed (s : State) (bs : List Byte) : (s.setRegs bs).changed = s.changed := rfl
@[simp] theorem State.setRegs_keys (s : State) (bs : List Byte) : (s.setRegs bs).keys = s.keys := rfl
@[simp] theorem State.setRegs_waiting (s : State) (bs : List Byte) : (s.setRegs bs).waiting = s.waiting := rfl
@[simp] theorem State.setRegs_waitReg (s : State) (bs : List Byte) : (s.setRegs bs).waitReg = s.waitReg := rfl
@[simp] theorem State.setRegs_dt (s : State) (bs : List Byte) : (s.setRegs bs).dt = s.dt := rfl
@[simp] theorem State.setRegs_st (s : State) (bs : List Byte) : (s.setRegs bs).st = s.st := rfl
@[simp] theorem State.setRegs_halted (s : State) (bs : List Byte) : (s.setRegs bs).halted = s.halted := rfl
@[simp] theorem State.setRegs_fault (s : State) (bs : List Byte) : (s.setRegs bs).fault = s.fault := rfl
@[simp] theorem State.setRegs_faultAddr (s : State) (bs : List Byte) : (s.setRegs bs).faultAddr = s.faultAddr := rfl
@[simp] theorem State.setRegs_faultInfo (s : State) (bs : List Byte) : (s.setRegs bs).faultInfo = s.faultInfo := rfl
@[simp] theorem State.setRegs_rate (s : State) (bs : List Byte) : (s.setRegs bs).rate = s.rate := rfl
@[simp] theorem State.setRegs_tInstr (s : State) (bs : List Byte) : (s.setRegs bs).tInstr = s.tInstr := rfl
@[simp] theorem State.setRegs_tTimer (s : State) (bs : List Byte) : (s.setRegs bs).tTimer = s.tTimer := rfl
@[simp] theorem State.setRegs_draws (s : State) (bs : List Byte) : (s.setRegs bs).draws = s.draws := rfl
@[simp] theorem State.setRegs_schedule (s : State) (bs : List Byte) : (s.setRegs bs).schedule = s.schedule := rfl
@[simp] theorem State.setRegs_outputs (s : State) (bs : List Byte) : (s.setRegs bs).outputs = s.outputs := rfl

/-! ### emit -/

@[simp] theorem State.emit_v (s : State) (o : Output) : (s.emit o).v = s.v := rfl
@[simp] theorem State.emit_i (s : State) (o : Output) : (s.emit o).i = s.i := rfl
@[simp] theorem State.emit_pc (s : State) (o : Output) : (s.emit o).pc = s.pc := rfl
@[simp] theorem State.emit_stack (s : State) (o : Output) : (s.emit o).stack = s.stack := rfl
@[simp] theorem State.emit_mem (s : State) (o : Output) : (s.emit o).mem = s.mem := rfl
@[simp] theorem State.emit_disp (s : State) (o : Output) : (s.emit o).disp = s.disp := rfl
@[simp] theorem State.emit_changed (s : State) (o : Output) : (s.emit o).changed = s.changed := rfl
@[simp] theorem State.emit_keys (s : State) (o : Output) : (s.emit o).keys = s.keys := rfl
@[simp] theorem State.emit_waiting (s : State) (o : Output) : (s.emit o).waiting = s.waiting := rfl
@[simp] theorem State.emit_waitReg (s : State) (o : Output) : (s.emit o).waitReg = s.waitReg := rfl
@[simp] theorem State.emit_dt (s : State) (o : Output) : (s.emit o).dt = s.dt := rfl
@[simp] theorem State.emit_st (s : State) (o : Output) : (s.emit o).st = s.st := rfl
@[simp] theorem State.emit_halted (s : State) (o : Output) : (s.emit o).halted = s.halted := rfl
@[simp] theorem State.emit_fault (s : State) (o : Output) : (s.emit o).fault = s.fault := rfl
@[simp] theorem State.emit_faultAddr (s : State) (o : Output) : (s.emit o).faultAddr = s.faultAddr := rfl
@[simp] theorem State.emit_faultInfo (s : State) (o : Output) : (s.emit o).faultInfo = s.faultInfo := rfl
@[simp] theorem State.emit_rate (s : State) (o : Output) : (s.emit o).rate = s.rate := rfl
@[simp] theorem State.emit_tInstr (s : State) (o : Output) : (s.emit o).tInstr = s.tInstr := rfl
@[simp] theorem State.emit_tTimer (s : State) (o : Output) : (s.emit o).tTimer = s.tTimer := rfl
@[simp] theorem State.emit_draws (s : State) (o : Output) : (s.emit o).draws = s.draws := rfl
@[simp] theorem State.emit_schedule (s : State) (o : Output) : (s.emit o).schedule = s.schedule := rfl
@[simp] theorem State.emit_outputs (s : State) (o : Output) : (s.emit o).outputs = o :: s.outputs := rfl

/-! ### jump -/

@[simp] theorem State.jump_v (s : State) (a : Word) : (s.jump a).v = s.v := rfl
@[simp] theorem State.jump_i (s : State) (a : Word) : (s.jump a).i = s.i := rfl
@[simp] theorem State.jump_pc (s : State) (a : Word) : (s.jump a).pc = a := rfl
@[simp] theorem State.jump_stack (s : State) (a : Word) : (s.jump a).stack = s.stack := rfl
@[simp] theorem State.jump_mem (s : State) (a : Word) : (s.jump a).mem = s.mem := rfl
@[simp] theorem State.jump_disp (s : State) (a : Word) : (s.jump a).disp = s.disp := rfl
@[simp] theorem State.jump_changed (s : State) (a : Word) : (s.jump a).changed = s.changed := rfl
@[simp] theorem State.jump_keys (s : State) (a : Word) : (s.jump a).keys = s.keys := rfl
@[simp] theorem State.jump_waiting (s : State) (a : Word) : (s.jump a).waiting = s.waiting := rfl
@[simp] theorem State.jump_waitReg (s : State) (a : Word) : (s.jump a).waitReg = s.waitReg := rfl
@[simp] theorem State.jump_dt (s : State) (a : Word) : (s.jump a).dt = s.dt := rfl
@[simp] theorem State.jump_st (s : State) (a : Word) : (s.jump a).st = s.st := rfl
@[simp] theorem State.jump_halted (s : State) (a : Word) : (s.jump a).halted = s.halted := rfl
@[simp] theorem State.jump_fault (s : State) (a : Word) : (s.jump a).fault = s.fault := rfl
@[simp] theorem State.jump_faultAddr (s : State) (a : Word) : (s.jump a).faultAddr = s.faultAddr := rfl
@[simp] theorem State.jump_faultInfo (s : State) (a : Word) : (s.jump a).faultInfo = s.faultInfo := rfl
@[simp] theorem State.jump_rate (s : State) (a : Word) : (s.jump a).rate = s.rate := rfl
@[simp] theorem State.jump_tInstr (s : State) (a : Word) : (s.jump a).tInstr = s.tInstr := rfl
@[simp] theorem State.jump_tTimer (s : State) (a : Word) : (s.jump a).tTimer = s.tTimer := rfl
@[simp] theorem State.jump_draws (s : State) (a : Word) : (s.jump a).draws = s.draws := rfl
@[simp] theorem State.jump_schedule (s : State) (a : Word) : (s.jump a).schedule = s.schedule := rfl
@[simp] theorem State.jump_outputs (s : State) (a : Word) : (s.jump a).outputs = s.outputs := rfl

/-! ### skipIf -/

@[simp] theorem State.skipIf_v (s : State) (c : Bool) : (s.skipIf c).v = s.v := rfl
@[simp] theorem State.skipIf_i (s : State) (c : Bool) : (s.skipIf c).i = s.i := rfl
@[simp] theorem State.skipIf_pc (s : State) (c : Bool) : (s.skipIf c).pc = if c then s.pc + 2 else s.pc := rfl
@[simp] theorem State.skipIf_stack (s : State) (c : Bool) : (s.skipIf c).stack = s.stack := rfl
@[simp] theorem State.skipIf_mem (s : State) (c : Bool) : (s.skipIf c).mem = s.mem := rfl
@[simp] theorem State.skipIf_disp (s : State) (c : Bool) : (s.skipIf c).disp = s.disp := rfl
@[simp] theorem State.skipIf_changed (s : State) (c : Bool) : (s.skipIf c).changed = s.changed := rfl
@[simp] theorem State.skipIf_keys (s : State) (c : Bool) : (s.skipIf c).keys = s.keys := rfl
@[simp] theorem State.skipIf_waiting (s : State) (c : Bool) : (s.skipIf c).waiting = s.waiting := rfl
@[simp] theorem State.skipIf_waitReg (s : State) (c : Bool) : (s.skipIf c).waitReg = s.waitReg := rfl
@[simp] theorem State.skipIf_dt (s : State) (c : Bool) : (s.skipIf c).dt = s.dt := rfl
@[simp] theorem State.skipIf_st (s : State) (c : Bool) : (s.skipIf c).st = s.st := rfl
@[simp] theorem State.skipIf_halted (s : State) (c : Bool) : (s.skipIf c).halted = s.halted := rfl
@[simp] theorem State.skipIf_fault (s : State) (c : Bool) : (s.skipIf c).fault = s.fault := rfl
@[simp] theorem State.skipIf_faultAddr (s : State) (c : Bool) : (s.skipIf c).faultAddr = s.faultAddr := rfl
@[simp] theorem State.skipIf_faultInfo (s : State) (c : Bool) : (s.skipIf c).faultInfo = s.faultInfo := rfl
@[simp] theorem State.skipIf_rate (s : State) (c : Bool) : (s.skipIf c).rate = s.rate := rfl
@[simp] theorem State.skipIf_tInstr (s : State) (c : Bool) : (s.skipIf c).tInstr = s.tInstr := rfl
@[simp] theorem State.skipIf_tTimer (s : State) (c : Bool) : (s.skipIf c).tTimer = s.tTimer := rfl
@[simp] theorem State.skipIf_draws (s : State) (c : Bool) : (s.skipIf c).draws = s.draws := rfl
@[simp] theorem State.skipIf_schedule (s : State) (c : Bool) : (s.skipIf c).schedule = s.schedule := rfl
@[simp] theorem State.skipIf_outputs (s : State) (c : Bool) : (s.skipIf c).outputs = s.outputs := rfl

/-! ### setI -/

@[simp] theorem State.setI_v (s : State) (a : Word) : (s.setI a).v = s.v := rfl
@[simp] theorem State.setI_i (s : State) (a : Word) : (s.setI a).i = a := rfl
@[simp] theorem State.setI_pc (s : State) (a : Word) : (s.setI a).pc = s.pc := rfl
@[simp] theorem State.setI_stack (s : State) (a : Word) : (s.setI a).stack = s.stack := rfl
@[simp] theorem State.setI_mem (s : State) (a : Word) : (s.setI a).mem = s.mem := rfl
@[simp] theorem State.setI_disp (s : State) (a : Word) : (s.setI a).disp = s.disp := rfl
@[simp] theorem State.setI_changed (s : State) (a : Word) : (s.setI a).changed = s.changed := rfl
@[simp] theorem State.setI_keys (s : State) (a : Word) : (s.setI a).keys = s.keys := rfl
@[simp] theorem State.setI_waiting (s : State) (a : Word) : (s.setI a).waiting = s.waiting := rfl
@[simp] theorem State.setI_waitReg (s : State) (a : Word) : (s.setI a).waitReg = s.waitReg := rfl
@[simp] theorem State.setI_dt (s : State) (a : Word) : (s.setI a).dt = s.dt := rfl
@[simp] theorem State.setI_st (s : State) (a : Word) : (s.setI a).st = s.st := rfl
@[simp] theorem State.setI_halted (s : State) (a : Word) : (s.setI a).halted = s.halted := rfl
@[simp] theorem State.setI_fault (s : State) (a : Word) : (s.setI a).fault = s.fault := rfl
@[simp] theorem State.setI_faultAddr (s : State) (a : Word) : (s.setI a).faultAddr = s.faultAddr := rfl
@[simp] theorem State.setI_faultInfo (s : State) (a : Word) : (s.setI a).faultInfo = s.faultInfo := rfl
@[simp] theorem State.setI_rate (s : State) (a : Word) : (s.setI a).rate = s.rate := rfl
@[simp] theorem State.setI_tInstr (s : State) (a : Word) : (s.setI a).tInstr = s.tInstr := rfl
@[simp] theorem State.setI_tTimer (s : State) (a : Word) : (s.setI a).tTimer = s.tTimer := rfl
@[simp] theorem State.setI_draws (s : State) (a : Word) : (s.setI a).draws = s.draws := rfl
@[simp] theorem State.setI_schedule (s : State) (a : Word) : (s.setI a).schedule = s.schedule := rfl
@[simp] theorem State.setI_outputs (s : State) (a : Word) : (s.setI a).outputs = s.outputs := rfl

/-! ### setKey -/

@[simp] theorem State.setKey_v (s : State) (k : Fin 16) (b : Bool) : (s.setKey k b).v = s.v := rfl
@[simp] theorem State.setKey_i (s : State) (k : Fin 16) (b : Bool) : (s.setKey k b).i = s.i := rfl
@[simp] theorem State.setKey_pc (s : State) (k : Fin 16) (b : Bool) : (s.setKey k b).pc = s.pc := rfl
@[simp] theorem State.setKey_stack (s : State) (k : Fin 16) (b : Bool) : (s.setKey k b).stack = s.stack := rfl
@[simp] theorem State.setKey_mem (s : State) (k : Fin 16) (b : Bool) : (s.setKey k b).mem = s.mem := rfl
@[simp] theorem State.setKey_disp (s : State) (k : Fin 16) (b : Bool) : (s.setKey k b).disp = s.disp := rfl
@[simp] theorem State.setKey_changed (s : State) (k : Fin 16) (b : Bool) : (s.setKey k b).changed = s.changed := rfl
@[simp] theorem State.setKey_waiting (s : State) (k : Fin 16) (b : Bool) : (s.setKey k b).waiting = s.waiting := rfl
@[simp] theorem State.setKey_waitReg (s : State) (k : Fin 16) (b : Bool) : (s.setKey k b).waitReg = s.waitReg := rfl
@[simp] theorem State.setKey_dt (s : State) (k : Fin 16) (b : Bool) : (s.setKey k b).dt = s.dt := rfl
@[simp] theorem State.setKey_st (s : State) (k : Fin 16) (b : Bool) : (s.setKey k b).st = s.st := rfl
@[simp] theorem State.setKey_halted (s : State) (k : Fin 16) (b : Bool) : (s.setKey k b).halted = s.halted := rfl
@[simp] theorem State.setKey_fault (s : State) (k : Fin 16) (b : Bool) : (s.setKey k b).fault = s.fault := rfl
@[simp] theorem State.setKey_faultAddr (s : State) (k : Fin 16) (b : Bool) : (s.setKey k b).faultAddr = s.faultAddr := rfl
@[simp] theorem State.setKey_faultInfo (s : State) (k : Fin 16) (b : Bool) : (s.setKey k b).faultInfo = s.faultInfo := rfl
@[simp] theorem State.setKey_rate (s : State) (k : Fin 16) (b : Bool) : (s.setKey k b).rate = s.rate := rfl
@[simp] theorem State.setKey_tInstr (s : State) (k : Fin 16) (b : Bool) : (s.setKey k b).tInstr = s.tInstr := rfl
@[simp] theorem State.setKey_tTimer (s : State) (k : Fin 16) (b : Bool) : (s.setKey k b).tTimer = s.tTimer := rfl
@[simp] theorem State.setKey_draws (s : State) (k : Fin 16) (b : Bool) : (s.setKey k b).draws = s.draws := rfl
@[simp] theorem State.setKey_schedule (s : State) (k : Fin 16) (b : Bool) : (s.setKey k b).schedule = s.schedule := rfl
@[simp] theorem State.setKey_outputs (s : State) (k : Fin 16) (b : Bool) : (s.setKey k b).outputs = s.outputs := rfl

/-! ### raise -/

@[simp] theorem raise_v (a : Word) (t : Trap) (s : State) : (raise a t s).v = s.v := rfl
@[simp] theorem raise_i (a : Word) (t : Trap) (s : State) : (raise a t s).i = s.i := rfl
@[simp] theorem raise_pc (a : Word) (t : Trap) (s : State) : (raise a t s).pc = s.pc := rfl
@[simp] theorem raise_stack (a : Word) (t : Trap) (s : State) : (raise a t s).stack = s.stack := rfl
@[simp] theorem raise_mem (a : Word) (t : Trap) (s : State) : (raise a t s).mem = s.mem := rfl
@[simp] theorem raise_disp (a : Word) (t : Trap) (s : State) : (raise a t s).disp = s.disp := rfl
@[simp] theorem raise_changed (a : Word) (t : Trap) (s : State) : (raise a t s).changed = s.changed := rfl
@[simp] theorem raise_keys (a : Word) (t : Trap) (s : State) : (raise a t s).keys = s.keys := rfl
@[simp] theorem raise_waiting (a : Word) (t : Trap) (s : State) : (raise a t s).waiting = s.waiting := rfl
@[simp] theorem raise_waitReg (a : Word) (t : Trap) (s : State) : (raise a t s).waitReg = s.waitReg := rfl
@[simp] theorem raise_dt (a : Word) (t : Trap) (s : State) : (raise a t s).dt = s.dt := rfl
@[simp] theorem raise_st (a : Word) (t : Trap) (s : State) : (raise a t s).st = s.st := rfl
@[simp] theorem raise_halted (a : Word) (t : Trap) (s : State) : (raise a t s).halted = true := rfl
@[simp] theorem raise_fault (a : Word) (t : Trap) (s : State) : (raise a t s).fault = t.code := rfl
@[simp] theorem raise_faultAddr (a : Word) (t : Trap) (s : State) : (raise a t s).faultAddr = a := rfl
@[simp] theorem raise_faultInfo (a : Word) (t : Trap) (s : State) : (raise a t s).faultInfo = t.info := rfl
@[simp] theorem raise_rate (a : Word) (t : Trap) (s : State) : (raise a t s).rate = s.rate := rfl
@[simp] theorem raise_tInstr (a : Word) (t : Trap) (s : State) : (raise a t s).tInstr = s.tInstr := rfl
@[simp] theorem raise_tTimer (a : Word) (t : Trap) (s : State) : (raise a t s).tTimer = s.tTimer := rfl
@[simp] theorem raise_draws (a : Word) (t : Trap) (s : State) : (raise a t s).draws = s.draws := rfl
@[simp] theorem raise_schedule (a : Word) (t : Trap) (s : State) : (raise a t s).schedule = s.schedule := rfl
@[simp] theorem raise_outputs (a : Word) (t : Trap) (s : State) : (raise a t s).outputs = .fault t.code a t.info :: s.outputs := rfl

/-! ### timerTick -/

@[simp] theorem timerTick_v (s : State) : (timerTick s).v = s.v := rfl
@[simp] theorem timerTick_i (s : State) : (timerTick s).i = s.i := rfl
@[simp] theorem timerTick_pc (s : State) : (timerTick s).pc = s.pc := rfl
@[simp] theorem timerTick_stack (s : State) : (timerTick s).stack = s.stack := rfl
@[simp] theorem timerTick_mem (s : State) : (timerTick s).mem = s.mem := rfl
@[simp] theorem timerTick_disp (s : State) : (timerTick s).disp = s.disp := rfl
@[simp] theorem timerTick_changed (s : State) : (timerTick s).changed = s.changed := rfl
@[simp] theorem timerTick_keys (s : State) : (timerTick s).keys = s.keys := rfl
@[simp] theorem timerTick_waiting (s : State) : (timerTick s).waiting = s.waiting := rfl
@[simp] theorem timerTick_waitReg (s : State) : (timerTick s).waitReg = s.waitReg := rfl
@[simp] theorem timerTick_dt (s : State) : (timerTick s).dt = countDown s.dt := rfl
@[simp] theorem timerTick_st (s : State) : (timerTick s).st = countDown s.st := rfl
@[simp] theorem timerTick_halted (s : State) : (timerTick s).halted = s.halted := rfl
@[simp] theorem timerTick_fault (s : State) : (timerTick s).fault = s.fault := rfl
@[simp] theorem timerTick_faultAddr (s : State) : (timerTick s).faultAddr = s.faultAddr := rfl
@[simp] theorem timerTick_faultInfo (s : State) : (timerTick s).faultInfo = s.faultInfo := rfl
@[simp] theorem timerTick_rate (s : State) : (timerTick s).rate = s.rate := rfl
@[simp] theorem timerTick_tInstr (s : State) : (timerTick s).tInstr = s.tInstr := rfl
@[simp] theorem timerTick_tTimer (s : State) : (timerTick s).tTimer = s.tTimer := rfl
@[simp] theorem timerTick_draws (s : State) : (timerTick s).draws = s.draws := rfl
@[simp] theorem timerTick_schedule (s : State) : (timerTick s).schedule = s.schedule := rfl
@[simp] theorem timerTick_outputs (s : State) : (timerTick s).outputs = soundStrobes s.st ++ s.outputs := rfl

/-! ### draw -/

@[simp] theorem State.draw_i (s : State) (vx vy : Byte) (rows : List Byte) :
    (s.draw vx vy rows).i = s.i := rfl
@[simp] theorem State.draw_pc (s : State) (vx vy : Byte) (rows : List Byte) :
    (s.draw vx vy rows).pc = s.pc := rfl
@[simp] theorem State.draw_stack (s : State) (vx vy : Byte) (rows : List Byte) :
    (s.draw vx vy rows).stack = s.stack := rfl
@[simp] theorem State.draw_mem (s : State) (vx vy : Byte) (rows : List Byte) :
    (s.draw vx vy rows).mem = s.mem := rfl
@[simp] theorem State.draw_disp (s : State) (vx vy : Byte) (rows : List Byte) :
    (s.draw vx vy rows).disp = (s.disp.blit false (spritePlaces vx vy 0 rows)).1 := rfl
@[simp] theorem State.draw_changed (s : State) (vx vy : Byte) (rows : List Byte) :
    (s.draw vx vy rows).changed = true := rfl
@[simp] theorem State.draw_keys (s : State) (vx vy : Byte) (rows : List Byte) :
    (s.draw vx vy rows).keys = s.keys := rfl
@[simp] theorem State.draw_waiting (s : State) (vx vy : Byte) (rows : List Byte) :
    (s.draw vx vy rows).waiting = s.waiting := rfl
@[simp] theorem State.draw_waitReg (s : State) (vx vy : Byte) (rows : List Byte) :
    (s.draw vx vy rows).waitReg = s.waitReg := rfl
@[simp] theorem State.draw_dt (s : State) (vx vy : Byte) (rows : List Byte) :
    (s.draw vx vy rows).dt = s.dt := rfl
@[simp] theorem State.draw_st (s : State) (vx vy : Byte) (rows : List Byte) :
    (s.draw vx vy rows).st = s.st := rfl
@[simp] theorem State.draw_halted (s : State) (vx vy : Byte) (rows : List Byte) :
    (s.draw vx vy rows).halted = s.halted := rfl
@[simp] theorem State.draw_fault (s : State) (vx vy : Byte) (rows : List Byte) :
    (s.draw vx vy rows).fault = s.fault := rfl
@[simp] theorem State.draw_faultAddr (s : State) (vx vy : Byte) (rows : List Byte) :
    (s.draw vx vy rows).faultAddr = s.faultAddr := rfl
@[simp] theorem State.draw_faultInfo (s : State) (vx vy : Byte) (rows : List Byte) :
    (s.draw vx vy rows).faultInfo = s.faultInfo := rfl
@[simp] theorem State.draw_rate (s : State) (vx vy : Byte) (rows : List Byte) :
    (s.draw vx vy rows).rate = s.rate := rfl
@[simp] theorem State.draw_tInstr (s : State) (vx vy : Byte) (rows : List Byte) :
    (s.draw vx vy rows).tInstr = s.tInstr := rfl
@[simp] theorem State.draw_tTimer (s : State) (vx vy : Byte) (rows : List Byte) :
    (s.draw vx vy rows).tTimer = s.tTimer := rfl
@[simp] theorem State.draw_draws (s : State) (vx vy : Byte) (rows : List Byte) :
    (s.draw vx vy rows).draws = s.draws := rfl
@[simp] theorem State.draw_schedule (s : State) (vx vy : Byte) (rows : List Byte) :
    (s.draw vx vy rows).schedule = s.schedule := rfl
@[simp] theorem State.draw_outputs (s : State) (vx vy : Byte) (rows : List Byte) :
    (s.draw vx vy rows).outputs = s.outputs := rfl

/-! ### countDraw -/

@[simp] theorem State.countDraw_v (s : State) : s.countDraw.v = s.v := rfl
@[simp] theorem State.countDraw_i (s : State) : s.countDraw.i = s.i := rfl
@[simp] theorem State.countDraw_pc (s : State) : s.countDraw.pc = s.pc := rfl
@[simp] theorem State.countDraw_stack (s : State) : s.countDraw.stack = s.stack := rfl
@[simp] theorem State.countDraw_mem (s : State) : s.countDraw.mem = s.mem := rfl
@[simp] theorem State.countDraw_disp (s : State) : s.countDraw.disp = s.disp := rfl
@[simp] theorem State.countDraw_changed (s : State) : s.countDraw.changed = s.changed := rfl
@[simp] theorem State.countDraw_keys (s : State) : s.countDraw.keys = s.keys := rfl
@[simp] theorem State.countDraw_waiting (s : State) : s.countDraw.waiting = s.waiting := rfl
@[simp] theorem State.countDraw_waitReg (s : State) : s.countDraw.waitReg = s.waitReg := rfl
@[simp] theorem State.countDraw_dt (s : State) : s.countDraw.dt = s.dt := rfl
@[simp] theorem State.countDraw_st (s : State) : s.countDraw.st = s.st := rfl
@[simp] theorem State.countDraw_halted (s : State) : s.countDraw.halted = s.halted := rfl
@[simp] theorem State.countDraw_fault (s : State) : s.countDraw.fault = s.fault := rfl
@[simp] theorem State.countDraw_faultAddr (s : State) : s.countDraw.faultAddr = s.faultAddr := rfl
@[simp] theorem State.countDraw_faultInfo (s : State) : s.countDraw.faultInfo = s.faultInfo := rfl
@[simp] theorem State.countDraw_rate (s : State) : s.countDraw.rate = s.rate := rfl
@[simp] theorem State.countDraw_tInstr (s : State) : s.countDraw.tInstr = s.tInstr := rfl
@[simp] theorem State.countDraw_tTimer (s : State) : s.countDraw.tTimer = s.tTimer := rfl
@[simp] theorem State.countDraw_draws (s : State) : s.countDraw.draws = s.draws + 1 := rfl
@[simp] theorem State.countDraw_schedule (s : State) : s.countDraw.schedule = s.schedule := rfl
@[simp] theorem State.countDraw_outputs (s : State) : s.countDraw.outputs = s.outputs := rfl
@[simp] theorem State.countDraw_getV (s : State) (j : Reg) : s.countDraw.getV j = s.getV j := rfl
@[simp] theorem State.countDraw_readByte (s : State) (a : Nat) : s.countDraw.readByte a = s.readByte a := rfl
@[simp] theorem State.countDraw_key (s : State) (j : Fin 16) : s.countDraw.key j = s.key j := rfl

/-! ### doReset -/

@[simp] theorem State.doReset_v (s : State) : s.doReset.v = State.reset.v := rfl
@[simp] theorem State.doReset_i (s : State) : s.doReset.i = State.reset.i := rfl
@[simp] theorem State.doReset_pc (s : State) : s.doReset.pc = State.reset.pc := rfl
@[simp] theorem State.doReset_stack (s : State) : s.doReset.stack = State.reset.stack := rfl
@[simp] theorem State.doReset_mem (s : State) : s.doReset.mem = State.reset.mem := rfl
@[simp] theorem State.doReset_disp (s : State) : s.doReset.disp = State.reset.disp := rfl
@[simp] theorem State.doReset_changed (s : State) : s.doReset.changed = State.reset.changed := rfl
@[simp] theorem State.doReset_keys (s : State) : s.doReset.keys = State.reset.keys := rfl
@[simp] theorem State.doReset_waiting (s : State) : s.doReset.waiting = State.reset.waiting := rfl
@[simp] theorem State.doReset_waitReg (s : State) : s.doReset.waitReg = State.reset.waitReg := rfl
@[simp] theorem State.doReset_dt (s : State) : s.doReset.dt = State.reset.dt := rfl
@[simp] theorem State.doReset_st (s : State) : s.doReset.st = State.reset.st := rfl
@[simp] theorem State.doReset_halted (s : State) : s.doReset.halted = State.reset.halted := rfl
@[simp] theorem State.doReset_fault (s : State) : s.doReset.fault = State.reset.fault := rfl
@[simp] theorem State.doReset_faultAddr (s : State) : s.doReset.faultAddr = State.reset.faultAddr := rfl
@[simp] theorem State.doReset_faultInfo (s : State) : s.doReset.faultInfo = State.reset.faultInfo := rfl
@[simp] theorem State.doReset_rate (s : State) : s.doReset.rate = State.reset.rate := rfl
@[simp] theorem State.doReset_tInstr (s : State) : s.doReset.tInstr = State.reset.tInstr := rfl
@[simp] theorem State.doReset_tTimer (s : State) : s.doReset.tTimer = State.reset.tTimer := rfl
@[simp] theorem State.doReset_draws (s : State) : s.doReset.draws = s.draws := rfl
@[simp] theorem State.doReset_schedule (s : State) : s.doReset.schedule = s.schedule := rfl
@[simp] theorem State.doReset_outputs (s : State) : s.doReset.outputs = s.outputs := rfl

/-! ### Registers, bytes and keys an update does not write read as before -/

@[simp] theorem State.setV_readByte (s : State) (x : Reg) (b : Byte) (c : Nat) :
    (s.setV x b).readByte c = s.readByte c := rfl
@[simp] theorem State.setV_key (s : State) (x : Reg) (b : Byte) (j : Fin 16) :
    (s.setV x b).key j = s.key j := rfl
@[simp] theorem State.setResultThenFlag_readByte (s : State) (x : Reg) (r f : Byte) (c : Nat) :
    (s.setResultThenFlag x r f).readByte c = s.readByte c := rfl
@[simp] theorem State.setResultThenFlag_key (s : State) (x : Reg) (r f : Byte) (j : Fin 16) :
    (s.setResultThenFlag x r f).key j = s.key j := rfl
@[simp] theorem State.writeByte_getV (s : State) (a : Nat) (b : Byte) (j : Reg) :
    (s.writeByte a b).getV j = s.getV j := rfl
@[simp] theorem State.writeByte_key (s : State) (a : Nat) (b : Byte) (j : Fin 16) :
    (s.writeByte a b).key j = s.key j := rfl
@[simp] theorem State.writeBytes_getV (s : State) (base : Nat) (bs : List Byte) (j : Reg) :
    (s.writeBytes base bs).getV j = s.getV j := rfl
@[simp] theorem State.writeBytes_key (s : State) (base : Nat) (bs : List Byte) (j : Fin 16) :
    (s.writeBytes base bs).key j = s.key j := rfl
@[simp] theorem State.setRegs_readByte (s : State) (bs : List Byte) (c : Nat) :
    (s.setRegs bs).readByte c = s.readByte c := rfl
@[simp] theorem State.setRegs_key (s : State) (bs : List Byte) (j : Fin 16) :
    (s.setRegs bs).key j = s.key j := rfl
@[simp] theorem State.emit_getV (s : State) (o : Output) (j : Reg) :
    (s.emit o).getV j = s.getV j := rfl
@[simp] theorem State.emit_readByte (s : State) (o : Output) (c : Nat) :
    (s.emit o).readByte c = s.readByte c := rfl
@[simp] theorem State.emit_key (s : State) (o : Output) (j : Fin 16) :
    (s.emit o).key j = s.key j := rfl
@[simp] theorem State.jump_getV (s : State) (a : Word) (j : Reg) :
    (s.jump a).getV j = s.getV j := rfl
@[simp] theorem State.jump_readByte (s : State) (a : Word) (c : Nat) :
    (s.jump a).readByte c = s.readByte c := rfl
@[simp] theorem State.jump_key (s : State) (a : Word) (j : Fin 16) :
    (s.jump a).key j = s.key j := rfl
@[simp] theorem State.skipIf_getV (s : State) (c : Bool) (j : Reg) :
    (s.skipIf c).getV j = s.getV j := rfl
@[simp] theorem State.skipIf_readByte (s : State) (c : Bool) (a : Nat) :
    (s.skipIf c).readByte a = s.readByte a := rfl
@[simp] theorem State.skipIf_key (s : State) (c : Bool) (j : Fin 16) :
    (s.skipIf c).key j = s.key j := rfl
@[simp] theorem State.setI_getV (s : State) (a : Word) (j : Reg) :
    (s.setI a).getV j = s.getV j := rfl
@[simp] theorem State.setI_readByte (s : State) (a : Word) (c : Nat) :
    (s.setI a).readByte c = s.readByte c := rfl
@[simp] theorem State.setI_key (s : State) (a : Word) (j : Fin 16) :
    (s.setI a).key j = s.key j := rfl
@[simp] theorem State.setKey_getV (s : State) (k : Fin 16) (b : Bool) (j : Reg) :
    (s.setKey k b).getV j = s.getV j := rfl
@[simp] theorem State.setKey_readByte (s : State) (k : Fin 16) (b : Bool) (c : Nat) :
    (s.setKey k b).readByte c = s.readByte c := rfl
@[simp] theorem raise_getV (a : Word) (t : Trap) (s : State) (j : Reg) :
    (raise a t s).getV j = s.getV j := rfl
@[simp] theorem raise_readByte (a : Word) (t : Trap) (s : State) (c : Nat) :
    (raise a t s).readByte c = s.readByte c := rfl
@[simp] theorem raise_key (a : Word) (t : Trap) (s : State) (j : Fin 16) :
    (raise a t s).key j = s.key j := rfl
@[simp] theorem timerTick_getV (s : State) (j : Reg) :
    (timerTick s).getV j = s.getV j := rfl
@[simp] theorem timerTick_readByte (s : State) (c : Nat) :
    (timerTick s).readByte c = s.readByte c := rfl
@[simp] theorem timerTick_key (s : State) (j : Fin 16) :
    (timerTick s).key j = s.key j := rfl
@[simp] theorem State.draw_readByte (s : State) (vx vy : Byte) (rows : List Byte) (c : Nat) :
    (s.draw vx vy rows).readByte c = s.readByte c := rfl
@[simp] theorem State.draw_key (s : State) (vx vy : Byte) (rows : List Byte) (j : Fin 16) :
    (s.draw vx vy rows).key j = s.key j := rfl

/-! ### Registers and keys read after a write -/

theorem State.getV_setV (s : State) (x k : Reg) (b : Byte) :
    (s.setV x b).getV k = if k = x then b else s.getV k := by
  simp only [State.getV, State.setV, Vector.getElem_set, Fin.ext_iff, eq_comm]

@[simp] theorem State.getV_setV_same (s : State) (x : Reg) (b : Byte) : (s.setV x b).getV x = b := by
  simp [State.getV_setV]

theorem State.getV_setV_other (s : State) {x k : Reg} (b : Byte) (h : k ≠ x) :
    (s.setV x b).getV k = s.getV k := by
  simp [State.getV_setV, h]

/-- A state's registers read the same when the register file is the same. -/
theorem State.getV_congr {s t : State} (h : t.v = s.v) (k : Reg) : t.getV k = s.getV k := by
  simp [State.getV, h]

/-- A state's memory reads the same when the cell list is the same. -/
theorem State.readByte_congr {s t : State} (h : t.mem = s.mem) (a : Nat) : t.readByte a = s.readByte a := by
  simp [State.readByte, h]

/-- A state's keys read the same when the flags are the same. -/
theorem State.key_congr {s t : State} (h : t.keys = s.keys) (k : Fin 16) : t.key k = s.key k := by
  simp [State.key, h]

theorem State.getV_setResultThenFlag (s : State) (x k : Reg) (r f : Byte) :
    (s.setResultThenFlag x r f).getV k = if k = flagReg then f else if k = x then r else s.getV k := by
  simp [State.setResultThenFlag, State.getV_setV]

theorem State.key_setKey (s : State) (k j : Fin 16) (b : Bool) :
    (s.setKey k b).key j = if j = k then b else s.key j := by
  simp only [State.key, State.setKey, Vector.getElem_set, Fin.ext_iff, eq_comm]

end Sys2Proof.Machine
end

