-- ==== Sys2Proof/Laws/Operations.lean ====
section
/-!
SUPPORT. One lemma per shared operation that says everything it can do; later proofs cite it instead of unfolding the
operation.
-/

namespace Sys2Proof.Machine

/-! ### Completing or faulting -/

@[simp] theorem State.complete_ok (s t : State) : s.complete (.ok t) = .next t := rfl

@[simp] theorem State.complete_error (s : State) (trap : Trap) :
    s.complete (.error trap) = .next (raise s.instrAddr trap s) := rfl

/-- Entering a fault is exactly what R213 says, and nothing else. -/
theorem faultTaken_raise (a : Word) (trap : Trap) (s : State) :
    FaultTaken trap.code a trap.info s (raise a trap s) where
  isHalted := rfl
  codeIs := rfl
  addrIs := rfl
  infoIs := rfl
  report := rfl
  frame := by constructor <;> intros <;> first | rfl | simp_all

/-- CheckRange answers by whether the range is inside memory. -/
theorem checkRange_eq (base : Word) (count : Nat) :
    (InRange base count ∧ checkRange base count = .ok ()) ∨
    (¬ InRange base count ∧ checkRange base count = .error ⟨.memoryOutOfRange, firstBad base⟩) := by
  have hb := base.isLt
  by_cases h : 0 < count ∧ base.toNat + count - 1 > Config.memSize - 1
  · rw [checkRange, if_pos h]
    simp only [Config.memSize] at h ⊢
    refine .inr ⟨by simp only [InRange]; omega, ?_⟩
    rw [firstBad]
    congr 2
    split
    · rw [Nat.max_eq_right (by omega)]; rfl
    · rw [Nat.max_eq_left (by omega)]; simp
  · rw [checkRange, if_neg h]
    simp only [Config.memSize] at h
    exact .inl ⟨by simp only [InRange]; omega, rfl⟩

theorem checkRange_of_inRange {base : Word} {count : Nat} (h : InRange base count) :
    checkRange base count = .ok () :=
  (checkRange_eq base count).elim And.right fun h' => absurd h h'.1

theorem checkRange_of_outOfRange {base : Word} {count : Nat} (h : ¬ InRange base count) :
    checkRange base count = .error ⟨.memoryOutOfRange, firstBad base⟩ :=
  (checkRange_eq base count).elim (fun h' => absurd h'.1 h) And.right

/-- An instruction that completes or faults answers a next state either way (60_exceptions.md R213). -/
theorem State.complete_next (s : State) (r : Except Trap State) :
    (∃ t, r = .ok t ∧ s.complete r = .next t) ∨
    (∃ trap, r = .error trap ∧ s.complete r = .next (raise s.instrAddr trap s)) := by
  cases r with
  | ok t => exact .inl ⟨t, rfl, rfl⟩
  | error trap => exact .inr ⟨trap, rfl, rfl⟩

/-! ### Call stack -/

theorem State.push_of_lt {s : State} {a : Word} (h : s.stack.length < 16) :
    s.push a = .ok { s with stack := a :: s.stack } := by simp [State.push, h]

theorem State.push_of_full {s : State} {a : Word} (h : 16 ≤ s.stack.length) :
    s.push a = .error ⟨.stackOverflow, a⟩ := by
  simp [State.push, Nat.not_lt.2 h]

theorem State.pop_nil {s : State} (h : s.stack = []) : s.pop = .error ⟨.stackUnderflow, 0⟩ := by
  simp [State.pop, h]

theorem State.pop_cons {s : State} {a : Word} {rest : List Word} (h : s.stack = a :: rest) :
    s.pop = .ok (a, { s with stack := rest }) := by
  simp [State.pop, h]

/-! ### Several registers or bytes -/

theorem length_readBytes (s : State) (base n : Nat) : (s.readBytes base n).length = n := by
  simp [State.readBytes]

theorem getElem_readBytes (s : State) (base n k : Nat) (h : k < (s.readBytes base n).length) :
    (s.readBytes base n)[k] = s.readByte (base + k) := by
  simp [State.readBytes]

theorem length_regsUpTo (s : State) (x : Reg) : (s.regsUpTo x).length = x.val + 1 := by
  simp [State.regsUpTo]

theorem getElem_regsUpTo (s : State) (x k : Reg) (h : k.val < (s.regsUpTo x).length) :
    (s.regsUpTo x)[k.val] = s.getV k := by
  simp only [State.regsUpTo, List.getElem_map, List.getElem_range]
  congr 1
  exact Fin.ext (Nat.mod_eq_of_lt k.isLt)

theorem length_bcdDigits (a : Byte) : (bcdDigits a).length = 3 := rfl

/-- Writing a run of registers writes exactly those. -/
theorem getElem_setFrom (v : Vector Byte 16) (k : Nat) (bs : List Byte) (j : Nat) (hj : j < 16)
    (hk : k + bs.length ≤ 16) :
    (setFrom v k bs)[j] = if h : k ≤ j ∧ j < k + bs.length then bs[j - k]'(by omega) else v[j] := by
  induction bs generalizing v k with
  | nil =>
    rw [dif_neg (by simp only [List.length_nil]; omega)]
    rfl
  | cons b bs ih =>
    simp only [List.length_cons] at hk
    have hkk : (Fin.ofNat 16 k).val = k := Nat.mod_eq_of_lt (by omega)
    rw [setFrom, ih _ _ (by omega)]
    simp only [Vector.getElem_set, hkk, List.length_cons]
    by_cases h1 : j = k
    · subst h1; simp
    · by_cases h2 : k + 1 ≤ j ∧ j < k + 1 + bs.length
      · rw [dif_pos h2, dif_pos (by omega)]
        obtain ⟨m, rfl⟩ : ∃ m, j = k + 1 + m := ⟨j - (k + 1), by omega⟩
        simp [show k + 1 + m - k = m + 1 by omega]
      · rw [dif_neg h2, dif_neg (by omega), if_neg (Ne.symm h1)]

/-- LD Vx,[I]'s register write: V[k] is the k-th byte for k below the count, and every other register stays. -/
theorem State.getV_setRegs (s : State) (bs : List Byte) (k : Reg) (hb : bs.length ≤ 16) :
    (s.setRegs bs).getV k = if h : k.val < bs.length then bs[k.val] else s.getV k := by
  have := getElem_setFrom s.v 0 bs k.val k.isLt (by omega)
  simpa [State.getV] using this

/-! ### Display -/

theorem Display.pixel_flip (d : Display) (p q : Place) :
    (d.flip p).pixel q = if q = p then !(d.pixel p) else d.pixel q := by
  obtain ⟨py, px⟩ := p
  obtain ⟨qy, qx⟩ := q
  simp only [Display.pixel, Display.flip, Vector.getElem_set, Prod.mk.injEq, Fin.ext_iff]
  by_cases h : py.val = qy.val
  · simp only [h, if_true, true_and, Vector.getElem_set]
    by_cases h' : px.val = qx.val <;> simp [h', eq_comm]
  · simp [h, Ne.symm h]

theorem Display.pixel_blank (p : Place) : Display.blank.pixel p = false := by
  simp [Display.blank, Display.pixel]

/-- Two buffers with the same pixels are the same buffer. -/
theorem Display.ext_pixel {d e : Display} (h : ∀ p, d.pixel p = e.pixel p) : d = e := by
  ext y hy x hx
  exact h (⟨y, hy⟩, ⟨x, hx⟩)

/-- A blit of distinct places flips exactly those, and hits when one of them was lit. -/
theorem Display.blit_spec (d : Display) (hit : Bool) {ps : List Place} (h : ps.Nodup) :
    (∀ q, (d.blit hit ps).1.pixel q = if q ∈ ps then !(d.pixel q) else d.pixel q) ∧
    ((d.blit hit ps).2 = true ↔ hit = true ∨ ∃ p ∈ ps, d.pixel p = true) := by
  induction ps generalizing d hit with
  | nil => simp [Display.blit]
  | cons p ps ih =>
    obtain ⟨hp, hps⟩ := List.nodup_cons.1 h
    obtain ⟨h1, h2⟩ := ih (d.flip p) (hit || d.pixel p) hps
    have hflip : ∀ r ∈ ps, (d.flip p).pixel r = d.pixel r := fun r hr => by
      rw [Display.pixel_flip, if_neg]
      rintro rfl
      exact hp hr
    refine ⟨fun q => ?_, ?_⟩
    · rw [Display.blit, h1, Display.pixel_flip]
      by_cases hq : q = p
      · subst hq; simp [hp]
      · simp [hq]
    · rw [Display.blit, h2]
      constructor
      · rintro (h | ⟨r, hr, hr'⟩)
        · rcases Bool.or_eq_true _ _ ▸ h with h | h
          · exact .inl h
          · exact .inr ⟨p, by simp, h⟩
        · exact .inr ⟨r, by simp [hr], hflip r hr ▸ hr'⟩
      · rintro (h | ⟨r, hr, hr'⟩)
        · exact .inl (by simp [h])
        · rcases List.mem_cons.1 hr with rfl | hr
          · exact .inl (by simp [hr'])
          · exact .inr ⟨r, hr, (hflip r hr).trans hr'⟩

theorem mem_rowPlaces {vx vy : Byte} {r : Nat} {row : Byte} {p : Place} :
    p ∈ rowPlaces vx vy r row ↔
      ∃ c, c < 8 ∧ row.getLsbD (7 - c) = true ∧ p = spritePlace vx vy r c := by
  simp only [rowPlaces, List.mem_map, List.mem_filter, List.mem_range]
  exact ⟨fun ⟨c, ⟨h1, h2⟩, h3⟩ => ⟨c, h1, h2, h3.symm⟩, fun ⟨c, h1, h2, h3⟩ => ⟨c, ⟨h1, h2⟩, h3.symm⟩⟩

theorem mem_spritePlaces {vx vy : Byte} {r : Nat} {rows : List Byte} {p : Place} :
    p ∈ spritePlaces vx vy r rows ↔
      ∃ k, ∃ h : k < rows.length, ∃ c, c < 8 ∧ rows[k].getLsbD (7 - c) = true ∧
        p = spritePlace vx vy (r + k) c := by
  induction rows generalizing r with
  | nil => simp [spritePlaces]
  | cons row rows ih =>
    rw [spritePlaces, List.mem_append, mem_rowPlaces, ih]
    constructor
    · rintro (⟨c, h⟩ | ⟨k, hk, c, h1, h2, h3⟩)
      · exact ⟨0, by simp, c, by simpa using h⟩
      · exact ⟨k + 1, by simpa using hk, c, h1, by simpa using h2, by rw [h3]; congr 1; omega⟩
    · rintro ⟨k, hk, c, h1, h2, h3⟩
      cases k with
      | zero => exact .inl ⟨c, h1, by simpa using h2, by simpa using h3⟩
      | succ k =>
        exact .inr ⟨k, by simpa using hk, c, h1, by simpa using h2, by rw [h3]; congr 1; omega⟩

theorem spritePlace_fst (vx vy : Byte) (r c : Nat) :
    (spritePlace vx vy r c).1.val = (vy.toNat + r) % 32 := rfl

theorem spritePlace_snd (vx vy : Byte) (r c : Nat) :
    (spritePlace vx vy r c).2.val = (vx.toNat + c) % 64 := rfl

/-- No two 1 bits of a sprite of at most 32 rows fall on one place (43_display.md R172, corner case c). -/
theorem nodup_spritePlaces (vx vy : Byte) (r : Nat) (rows : List Byte) (h : rows.length ≤ 32) :
    (spritePlaces vx vy r rows).Nodup := by
  induction rows generalizing r with
  | nil => simp [spritePlaces]
  | cons row rows ih =>
    rw [List.length_cons] at h
    rw [spritePlaces, List.nodup_append]
    refine ⟨?_, ih (r + 1) (by omega), ?_⟩
    · refine List.Nodup.map_on ?_ (List.nodup_range.filter _)
      intro c hc c' hc' heq
      have h1 := congrArg (fun p : Place => p.2.val) heq
      simp only [spritePlace_snd] at h1
      have := (List.mem_filter.1 hc).1
      have := (List.mem_filter.1 hc').1
      simp only [List.mem_range] at *
      omega
    · intro p hp q hq heq
      obtain ⟨c, -, -, rfl⟩ := mem_rowPlaces.1 hp
      obtain ⟨k, hk, c', -, -, rfl⟩ := mem_spritePlaces.1 hq
      have h1 := congrArg (fun p : Place => p.1.val) heq
      simp only [spritePlace_fst] at h1
      omega

/-- The places of a sprite read from memory are the ones it covers. -/
theorem mem_spritePlaces_readBytes (s : State) (vx vy : Byte) (base n : Nat) (p : Place) :
    p ∈ spritePlaces vx vy 0 (s.readBytes base n) ↔ SpriteCovers s vx vy base n p := by
  rw [mem_spritePlaces]
  constructor
  · rintro ⟨k, hk, c, h1, h2, rfl⟩
    refine ⟨k, c, by simpa [length_readBytes] using hk, h1, by simpa [getElem_readBytes] using h2, ?_, rfl⟩
    simp [spritePlace_fst]
  · rintro ⟨k, c, hk, h1, h2, h3, h4⟩
    refine ⟨k, by simpa [length_readBytes] using hk, c, h1, by simpa [getElem_readBytes] using h2, ?_⟩
    exact Prod.ext (Fin.ext (by simpa [spritePlace_fst] using h3)) (Fin.ext (by simpa [spritePlace_snd] using h4))

/-- Everything a draw does to the display and VF. -/
theorem State.draw_spec (s : State) (vx vy : Byte) (base : Nat) (n : Fin 16) :
    (∀ p, SpriteCovers s vx vy base n p →
      (s.draw vx vy (s.readBytes base n)).disp.pixel p = !(s.disp.pixel p)) ∧
    (∀ p, ¬ SpriteCovers s vx vy base n p →
      (s.draw vx vy (s.readBytes base n)).disp.pixel p = s.disp.pixel p) ∧
    (∀ k, (s.draw vx vy (s.readBytes base n)).getV k =
      if k = flagReg then flagOf (s.disp.blit false (spritePlaces vx vy 0 (s.readBytes base n))).2
      else s.getV k) ∧
    ((s.disp.blit false (spritePlaces vx vy 0 (s.readBytes base n))).2 = true ↔
      ∃ p, SpriteCovers s vx vy base n p ∧ s.disp.pixel p = true) := by
  have hn := n.isLt
  obtain ⟨h1, h2⟩ := Display.blit_spec s.disp false
    (nodup_spritePlaces vx vy 0 (s.readBytes base n) (by rw [length_readBytes]; omega))
  simp only [mem_spritePlaces_readBytes] at h2
  refine ⟨fun p hp => ?_, fun p hp => ?_, fun k => ?_, ?_⟩
  · rw [State.draw_disp, h1, if_pos ((mem_spritePlaces_readBytes ..).2 hp)]
  · rw [State.draw_disp, h1, if_neg (mt (mem_spritePlaces_readBytes ..).1 hp)]
  · exact State.getV_setV s flagReg k _
  · simpa using h2

end Sys2Proof.Machine
end

