-- ==== Sys2Proof/Laws/PerInstr.lean ====
section
/-!
SUPPORT. Statements made per instruction. The family MatchesRow: the canonical word of an instruction has the bits its
row of the opcode map fixes (30_encoding.md R66), whatever its operands.
-/

namespace Sys2Proof.Laws.MatchesRow

/-- The canonical word of i matches the row of i. -/
def Statement (i : Instr) : Prop := i.row.Matches (encode i)

theorem wordA_matches {op : BitVec 4} {p : Word} (nnn : Addr) (h : p.toNat = op.toNat * 4096) :
    OpcodeRow.Matches ⟨p, 0xF000⟩ (wordA op nnn) := by
  have := nnn.isLt
  refine BitVec.eq_of_toNat_eq ((and_groupMask _).trans ?_)
  rw [toNat_wordA]
  change _ = p.toNat
  omega

theorem wordXB_matches {op : BitVec 4} {p : Word} (x : Reg) (nn : Byte) (h : p.toNat = op.toNat * 4096) :
    OpcodeRow.Matches ⟨p, 0xF000⟩ (wordXB op x nn) := by
  have := nn.isLt
  refine BitVec.eq_of_toNat_eq ((and_groupMask _).trans ?_)
  rw [toNat_wordXB]
  change _ = p.toNat
  omega

theorem wordXS_matches {op : BitVec 4} {p : Word} {sub : Byte} (x : Reg)
    (h : p.toNat = op.toNat * 4096 + sub.toNat) : OpcodeRow.Matches ⟨p, 0xF0FF⟩ (wordXB op x sub) := by
  have := sub.isLt
  refine BitVec.eq_of_toNat_eq ((and_byteMask _).trans ?_)
  rw [toNat_wordXB]
  change _ = p.toNat
  omega

theorem wordXY_matches {op : BitVec 4} {p : Word} (x y : Reg) (n : Fin 16) (h : p.toNat = op.toNat * 4096) :
    OpcodeRow.Matches ⟨p, 0xF000⟩ (wordXY op x y n) := by
  refine BitVec.eq_of_toNat_eq ((and_groupMask _).trans ?_)
  rw [toNat_wordXY]
  change _ = p.toNat
  omega

theorem wordXYn_matches {op : BitVec 4} {p : Word} {n : Fin 16} (x y : Reg)
    (h : p.toNat = op.toNat * 4096 + n.val) : OpcodeRow.Matches ⟨p, 0xF00F⟩ (wordXY op x y n) := by
  refine BitVec.eq_of_toNat_eq ((and_nibbleMask _).trans ?_)
  rw [toNat_wordXY]
  change _ = p.toNat
  omega

theorem sys (nnn : Addr) : Statement (.sys nnn) := wordA_matches nnn rfl
theorem cls : Statement .cls := rfl
theorem ret : Statement .ret := rfl
theorem jp (nnn : Addr) : Statement (.jp nnn) := wordA_matches nnn rfl
theorem call (nnn : Addr) : Statement (.call nnn) := wordA_matches nnn rfl
theorem seImm (x : Reg) (nn : Byte) : Statement (.seImm x nn) := wordXB_matches x nn rfl
theorem sneImm (x : Reg) (nn : Byte) : Statement (.sneImm x nn) := wordXB_matches x nn rfl
theorem seReg (x : Reg) (y : Reg) : Statement (.seReg x y) := wordXY_matches x y 0 rfl
theorem ldImm (x : Reg) (nn : Byte) : Statement (.ldImm x nn) := wordXB_matches x nn rfl
theorem addImm (x : Reg) (nn : Byte) : Statement (.addImm x nn) := wordXB_matches x nn rfl
theorem ldReg (x : Reg) (y : Reg) : Statement (.ldReg x y) := wordXYn_matches x y rfl
theorem orReg (x : Reg) (y : Reg) : Statement (.orReg x y) := wordXYn_matches x y rfl
theorem andReg (x : Reg) (y : Reg) : Statement (.andReg x y) := wordXYn_matches x y rfl
theorem xorReg (x : Reg) (y : Reg) : Statement (.xorReg x y) := wordXYn_matches x y rfl
theorem addReg (x : Reg) (y : Reg) : Statement (.addReg x y) := wordXYn_matches x y rfl
theorem subReg (x : Reg) (y : Reg) : Statement (.subReg x y) := wordXYn_matches x y rfl
theorem shr (x : Reg) (y : Reg) : Statement (.shr x y) := wordXYn_matches x y rfl
theorem subn (x : Reg) (y : Reg) : Statement (.subn x y) := wordXYn_matches x y rfl
theorem shl (x : Reg) (y : Reg) : Statement (.shl x y) := wordXYn_matches x y rfl
theorem sneReg (x : Reg) (y : Reg) : Statement (.sneReg x y) := wordXY_matches x y 0 rfl
theorem ldI (nnn : Addr) : Statement (.ldI nnn) := wordA_matches nnn rfl
theorem jpV0 (nnn : Addr) : Statement (.jpV0 nnn) := wordA_matches nnn rfl
theorem rnd (x : Reg) (nn : Byte) : Statement (.rnd x nn) := wordXB_matches x nn rfl
theorem drw (x : Reg) (y : Reg) (n : Fin 16) : Statement (.drw x y n) := wordXY_matches x y n rfl
theorem skp (x : Reg) : Statement (.skp x) := wordXS_matches x rfl
theorem sknp (x : Reg) : Statement (.sknp x) := wordXS_matches x rfl
theorem ldVxDT (x : Reg) : Statement (.ldVxDT x) := wordXS_matches x rfl
theorem ldVxK (x : Reg) : Statement (.ldVxK x) := wordXS_matches x rfl
theorem ldDTVx (x : Reg) : Statement (.ldDTVx x) := wordXS_matches x rfl
theorem ldSTVx (x : Reg) : Statement (.ldSTVx x) := wordXS_matches x rfl
theorem addI (x : Reg) : Statement (.addI x) := wordXS_matches x rfl
theorem ldF (x : Reg) : Statement (.ldF x) := wordXS_matches x rfl
theorem ldB (x : Reg) : Statement (.ldB x) := wordXS_matches x rfl
theorem ldMemVx (x : Reg) : Statement (.ldMemVx x) := wordXS_matches x rfl
theorem ldVxMem (x : Reg) : Statement (.ldVxMem x) := wordXS_matches x rfl

end Sys2Proof.Laws.MatchesRow
end

