-- ==== Sys2Proof/Laws/Step.lean ====
section
/-!
SUPPORT. What the fetch, the instruction strobe, the gates and the host's operations can do, said once each.
-/

namespace Sys2Proof.Machine

theorem State.enabled_iff (s : State) : s.enabled = true ↔ s.halted = false ∧ s.waiting = false := by
  simp [State.enabled]

/-- An instruction strobe does nothing, or faults at the fetch, or executes the word at pc with pc advanced
(40_fetch_and_control.md R90 to R92). -/
theorem instrStep_cases (s : State) :
    (¬ (s.halted = false ∧ s.waiting = false) ∧ instrStep s = .next s) ∨
    (s.halted = false ∧ s.waiting = false ∧ 4094 < s.pc.toNat ∧
      instrStep s = .next (raise s.pc ⟨.programCounterOutOfRange, s.pc⟩ s)) ∨
    (s.halted = false ∧ s.waiting = false ∧ s.pc.toNat ≤ 4094 ∧
      instrStep s = execWord (s.wordAt s.pc.toNat) { s with pc := s.pc + 2 }) := by
  by_cases he : s.enabled = true
  · obtain ⟨h1, h2⟩ := (State.enabled_iff s).1 he
    by_cases hp : s.pc.toNat > Config.memSize - 2
    · exact .inr (.inl ⟨h1, h2, hp, by rw [instrStep, if_pos he, State.fetch, if_pos hp]⟩)
    · exact .inr (.inr ⟨h1, h2, Nat.le_of_not_lt hp, by rw [instrStep, if_pos he, State.fetch, if_neg hp]⟩)
  · exact .inl ⟨mt (State.enabled_iff s).2 he, by rw [instrStep, if_neg he]⟩

/-- A fetched word is executed as the instruction it decodes to, or as an unknown opcode (R94). -/
theorem execWord_cases (w : Word) (s : State) :
    (∃ i, decode w = .ok i ∧ execWord w s = exec i s) ∨
    (∃ e, decode w = .error e ∧ execWord w s = .next (s.emit (.unknownOpcode w s.instrAddr))) := by
  cases h : decode w with
  | ok i => exact .inl ⟨i, rfl, by rw [execWord, h]⟩
  | error e => exact .inr ⟨e, rfl, by rw [execWord, h]; rfl⟩

/-- After the fetch, the instruction's address is the pc it was fetched at. -/
theorem instrAddr_fetched (s : State) : State.instrAddr { s with pc := s.pc + 2 } = s.pc := by
  simp [State.instrAddr]

/-- A step performs the first operation of the schedule, or an instruction strobe (log 1). -/
theorem step_cases (s : State) :
    (s.schedule = [] ∧ step s = instrStep s) ∨
    (∃ op rest, s.schedule = op :: rest ∧ step s = hostStep op { s with schedule := rest }) := by
  cases h : s.schedule with
  | nil => exact .inl ⟨rfl, by simp [step, State.nextOp, h, hostStep]⟩
  | cons op rest => exact .inr ⟨op, rest, rfl, by simp [step, State.nextOp, h]⟩

/-- The instruction gate takes the time exactly when it fires, and changes nothing else
(70_reset_and_hazards.md R266). -/
theorem instrGate_cases (now : Nat) (s : State) :
    (s.rate ≠ 0 ∧ 1000 ≤ ((now : Int) - s.tInstr) * s.rate ∧ instrGate now s = (true, { s with tInstr := now })) ∨
    (¬ (s.rate ≠ 0 ∧ 1000 ≤ ((now : Int) - s.tInstr) * s.rate) ∧ instrGate now s = (false, s)) := by
  rw [instrGate]
  by_cases h0 : s.rate = 0
  · exact .inr ⟨fun h => h.1 h0, by rw [if_pos h0]⟩
  · rw [if_neg h0]
    have key : (now - s.tInstr) * s.rate ≥ 1000 ↔ 1000 ≤ ((now : Int) - s.tInstr) * s.rate := by
      rcases Nat.le_total s.tInstr now with h | h
      · obtain ⟨d, rfl⟩ := Nat.exists_eq_add_of_le h
        rw [Nat.add_sub_cancel_left, show ((s.tInstr + d : Nat) : Int) - s.tInstr = d by omega]
        norm_cast
      · rw [Nat.sub_eq_zero_of_le h]
        have : ((now : Int) - s.tInstr) * s.rate ≤ 0 :=
          mul_nonpos_of_nonpos_of_nonneg (by omega) (by omega)
        omega
    by_cases h : (now - s.tInstr) * s.rate ≥ 1000
    · exact .inl ⟨h0, key.1 h, by rw [if_pos h]⟩
    · exact .inr ⟨fun h' => h (key.2 h'.2), by rw [if_neg h]⟩

/-- The timer half of a cycle() call: a tick, with the call's time taken, exactly when its gate fires (R267). -/
theorem cycleTimer_cases (now : Nat) (s : State) :
    (1000 ≤ ((now : Int) - s.tTimer) * 60 ∧ s.cycleTimer now = timerTick { s with tTimer := now }) ∨
    (¬ 1000 ≤ ((now : Int) - s.tTimer) * 60 ∧ s.cycleTimer now = s) := by
  rw [State.cycleTimer, timerGate]
  simp only [Config.timerHz]
  by_cases h : (now - s.tTimer) * 60 ≥ 1000
  · exact .inl ⟨by omega, by simp [h]⟩
  · exact .inr ⟨by omega, by simp [h]⟩

/-- A cycle() call whose instruction half answers t ticks after it, or not (R265). -/
theorem cycleCall_of_next {now : Nat} {s t : State}
    (h : (if (instrGate now s).1 then instrStep (instrGate now s).2 else .next s) = Host.Outcome.next t) :
    cycleCall now s = .next (t.cycleTimer now) := by
  rw [cycleCall, h]

/-- A key event writes the flag of a key of the pad; a press while waiting also delivers the key
(44_keypad.md R195). -/
theorem applyKey_cases (s : State) (k : Fin 16) (pressed : Bool) :
    (s.waiting = true ∧ pressed = true ∧
      s.applyKey k pressed =
        ({ s.setKey k true with waiting := false } : State).setV s.waitReg (BitVec.ofNat 8 k.val)) ∨
    ((s.waiting = false ∨ pressed = false) ∧ s.applyKey k pressed = s.setKey k pressed) := by
  unfold State.applyKey
  cases hw : s.waiting <;> cases pressed <;> simp

theorem toNat_countDown (b : Byte) : (countDown b).toNat = b.toNat - 1 := by
  revert b
  decide

/-- The strobes of one tick (60_exceptions.md R222). -/
theorem soundStrobes_cases (st : Byte) :
    (st.toNat = 0 ∧ soundStrobes st = []) ∨
    (st.toNat = 1 ∧ soundStrobes st = [.beepFlush, .beepAccumulate]) ∨
    (1 < st.toNat ∧ soundStrobes st = [.beepAccumulate]) := by
  by_cases h0 : st = 0
  · exact .inl (by simp [h0, soundStrobes])
  · by_cases h1 : st = 1
    · exact .inr (.inl (by simp [h1, soundStrobes]))
    · have h0' : st.toNat ≠ 0 := fun h => h0 (BitVec.eq_of_toNat_eq h)
      have h1' : st.toNat ≠ 1 := fun h => h1 (BitVec.eq_of_toNat_eq h)
      exact .inr (.inr ⟨by omega, by rw [soundStrobes, if_neg h0, if_neg h1]⟩)

end Sys2Proof.Machine
end

