-- ==== Sys2Proof/Tests/Slice0.lean ====
section
/-!
SUPPORT. Tests, one step each. Expected results are the vectors of spec/95_test_vectors.md (their numbers stand in the
comments) or follow by hand from the rule named. The last part gives, for every obligation with hypotheses, concrete
states and operands that meet them, one theorem a clause where an obligation has several.
-/

namespace Sys2Proof.Tests

open Sys2Proof Sys2Proof.Machine

/-! ### Helpers -/

/-- The reset state with some registers set. -/
def regs (l : List (Reg × Byte)) : State := l.foldl (fun s p => s.setV p.1 p.2) State.reset

/-- The state with I and bytes of memory from there on. -/
def at' (a : Word) (bs : List Byte) (s : State) : State := (s.setI a).writeBytes a.toNat bs

/-- The state with one pixel lit. -/
def lit (p : Place) (s : State) : State := { s with disp := s.disp.flip p }

/-- Whether the word, placed at pc, runs in one step to a state with the property. -/
def got (w : Word) (s : State) (p : State → Bool) : Bool :=
  match step (s.writeBytes s.pc.toNat [highByte w, lowByte w]) with
  | .next t => p t
  | _ => false

/-- Whether the operation leads to a state with the property. -/
def does (op : HostOp) (s : State) (p : State → Bool) : Bool :=
  match step { s with schedule := [op] } with
  | .next t => p t
  | _ => false

/-- The lit pixels of some rows. -/
def litIn (t : State) (rows : List (Fin 32)) : List (Nat × Nat) :=
  rows.flatMap fun y => ((List.finRange 64).filter (fun x => t.disp.pixel (y, x))).map (fun x => (y.val, x.val))

/-! ### WellFormed: SYS may not have the low byte of CLS or of RET (30_encoding.md R65, R66) -/

theorem test_wf_refuses_sys_as_cls : ¬ (Instr.sys 0x0E0).WellFormed := by decide
theorem test_wf_refuses_sys_as_ret : ¬ (Instr.sys 0x1EE).WellFormed := by decide
theorem test_wf_accepts_sys : (Instr.sys 0x123).WellFormed := by decide

/-! ### Decode: a word for every constructor, written out from the map of 30_encoding.md R66 -/

theorem test_decode_sys : decode 0x0123 = .ok (.sys 0x123) := by decide
theorem test_decode_sys_zero : decode 0x0000 = .ok (.sys 0) := by decide
theorem test_decode_cls : decode 0x00E0 = .ok .cls := by decide
theorem test_decode_ret : decode 0x00EE = .ok .ret := by decide
theorem test_decode_jp : decode 0x1ABC = .ok (.jp 0xABC) := by decide
theorem test_decode_call : decode 0x2ABC = .ok (.call 0xABC) := by decide
theorem test_decode_seImm : decode 0x332A = .ok (.seImm 3 0x2A) := by decide
theorem test_decode_sneImm : decode 0x432A = .ok (.sneImm 3 0x2A) := by decide
theorem test_decode_seReg : decode 0x5120 = .ok (.seReg 1 2) := by decide
theorem test_decode_ldImm : decode 0x6A7F = .ok (.ldImm 10 0x7F) := by decide
theorem test_decode_addImm : decode 0x7205 = .ok (.addImm 2 5) := by decide
theorem test_decode_ldReg : decode 0x8120 = .ok (.ldReg 1 2) := by decide
theorem test_decode_orReg : decode 0x8121 = .ok (.orReg 1 2) := by decide
theorem test_decode_andReg : decode 0x8122 = .ok (.andReg 1 2) := by decide
theorem test_decode_xorReg : decode 0x8123 = .ok (.xorReg 1 2) := by decide
theorem test_decode_addReg : decode 0x8124 = .ok (.addReg 1 2) := by decide
theorem test_decode_subReg : decode 0x8125 = .ok (.subReg 1 2) := by decide
theorem test_decode_shr : decode 0x8126 = .ok (.shr 1 2) := by decide
theorem test_decode_subn : decode 0x8127 = .ok (.subn 1 2) := by decide
theorem test_decode_shl : decode 0x812E = .ok (.shl 1 2) := by decide
theorem test_decode_sneReg : decode 0x9120 = .ok (.sneReg 1 2) := by decide
theorem test_decode_ldI : decode 0xA20A = .ok (.ldI 0x20A) := by decide
theorem test_decode_jpV0 : decode 0xB300 = .ok (.jpV0 0x300) := by decide
theorem test_decode_rnd : decode 0xC30F = .ok (.rnd 3 0x0F) := by decide
theorem test_decode_drw : decode 0xD345 = .ok (.drw 3 4 5) := by decide
theorem test_decode_skp : decode 0xE29E = .ok (.skp 2) := by decide
theorem test_decode_sknp : decode 0xE2A1 = .ok (.sknp 2) := by decide
theorem test_decode_ldVxDT : decode 0xF407 = .ok (.ldVxDT 4) := by decide
theorem test_decode_ldVxK : decode 0xF30A = .ok (.ldVxK 3) := by decide
theorem test_decode_ldDTVx : decode 0xF415 = .ok (.ldDTVx 4) := by decide
theorem test_decode_ldSTVx : decode 0xF118 = .ok (.ldSTVx 1) := by decide
theorem test_decode_addI : decode 0xF21E = .ok (.addI 2) := by decide
theorem test_decode_ldF : decode 0xF429 = .ok (.ldF 4) := by decide
theorem test_decode_ldB : decode 0xF533 = .ok (.ldB 5) := by decide
theorem test_decode_ldMemVx : decode 0xF255 = .ok (.ldMemVx 2) := by decide
theorem test_decode_ldVxMem : decode 0xF165 = .ok (.ldVxMem 1) := by decide

-- R74: unknown words; R75: don't-care bits (TB6, TB7, TB17, TB21); TC2: the bytes the other way round are SYS.
theorem test_decode_unknown :
    decode 0x8018 = .error (.unknownOpcode 0x8018) ∧ decode 0x801F = .error (.unknownOpcode 0x801F) ∧
    decode 0xE19F = .error (.unknownOpcode 0xE19F) ∧ decode 0xF075 = .error (.unknownOpcode 0xF075) := by decide
theorem test_decode_dont_care :
    decode 0x0FEE = .ok .ret ∧ decode 0x01E0 = .ok .cls ∧ decode 0x501F = .ok (.seReg 0 1) ∧
    decode 0x9013 = .ok (.sneReg 0 1) := by decide
theorem test_decodeBytes :
    decodeBytes [0x60, 0x05, 0x61] = .ok (.ldImm 0 5, [0x61]) ∧
    decodeBytes [0x05, 0x60] = .ok (.sys 0x560, []) ∧ decodeBytes [0x60] = .error .truncated := by decide
theorem test_encode :
    encode (.ldImm 1 5) = 0x6105 ∧ encode (.addReg 0 1) = 0x8014 ∧ encode .cls = 0x00E0 ∧
    encode (.ldVxMem 15) = 0xFF65 ∧ encodeBytes (.ldI 0x20A) = [0xA2, 0x0A] := by decide
theorem test_decodeTableWord :
    decodeTableWord 16 0xD345 = some (.drw 3 4 5) ∧ decodeTableWord 16 0x8018 = none := by decide

/-! ### Arithmetic (table A) -/

-- TA1
theorem test_ldImm : got 0x6FAB (regs []) (fun t => t.getV 15 == 0xAB && t.pc == 0x202) = true := by decide
-- TA3, TA4
theorem test_addImm :
    got 0x7001 (regs [(0, 0xFF), (15, 9)]) (fun t => t.getV 0 == 0 && t.getV 15 == 9) ∧
    got 0x7F01 (regs [(15, 0xFF)]) (fun t => t.getV 15 == 0) = true := by decide
-- TA5
theorem test_ldReg : got 0x8010 (regs [(0, 1), (1, 0x99)]) (fun t => t.getV 0 == 0x99 && t.getV 1 == 0x99) = true := by
  decide
-- TA6
theorem test_orReg : got 0x8011 (regs [(0, 0xF0), (1, 0x0F), (15, 0x77)])
    (fun t => t.getV 0 == 0xFF && t.getV 15 == 0x77) = true := by decide
-- TA7
theorem test_andReg : got 0x8012 (regs [(0, 0xF0), (1, 0x3C), (15, 0x77)])
    (fun t => t.getV 0 == 0x30 && t.getV 15 == 0x77) = true := by decide
-- TA8
theorem test_xorReg : got 0x8013 (regs [(0, 0xF0), (1, 0x3C), (15, 0x77)])
    (fun t => t.getV 0 == 0xCC && t.getV 15 == 0x77) = true := by decide
-- TA11, TA12
theorem test_addReg :
    got 0x8014 (regs [(0, 0xFF), (1, 1)]) (fun t => t.getV 0 == 0 && t.getV 15 == 1) ∧
    got 0x8014 (regs [(0, 0xF0), (1, 0x0F)]) (fun t => t.getV 0 == 0xFF && t.getV 15 == 0) = true := by decide
-- TA17, TA18
theorem test_addReg_vf :
    got 0x8F14 (regs [(15, 1), (1, 1)]) (fun t => t.getV 15 == 0) ∧
    got 0x80F4 (regs [(0, 5), (15, 7)]) (fun t => t.getV 0 == 0x0C && t.getV 15 == 0) = true := by decide
-- TA20, TA21
theorem test_subReg :
    got 0x8015 (regs [(0, 5), (1, 5)]) (fun t => t.getV 0 == 0 && t.getV 15 == 1) ∧
    got 0x8015 (regs [(0, 5), (1, 6)]) (fun t => t.getV 0 == 0xFF && t.getV 15 == 0) = true := by decide
-- TA22c, TA22d
theorem test_subReg_vf :
    got 0x8F15 (regs [(15, 3), (1, 5)]) (fun t => t.getV 15 == 0) ∧
    got 0x80F5 (regs [(0, 9), (15, 4)]) (fun t => t.getV 0 == 5 && t.getV 15 == 1) = true := by decide
-- TA22f, TA22h
theorem test_subn :
    got 0x8017 (regs [(0, 6), (1, 5)]) (fun t => t.getV 0 == 0xFF && t.getV 15 == 0) ∧
    got 0x8F17 (regs [(15, 3), (1, 5)]) (fun t => t.getV 15 == 1) = true := by decide
-- TA22i, TA22k
theorem test_shr :
    got 0x8016 (regs [(0, 3), (1, 0xAA)]) (fun t => t.getV 0 == 1 && t.getV 1 == 0xAA && t.getV 15 == 1) ∧
    got 0x8016 (regs [(0, 0xFF)]) (fun t => t.getV 0 == 0x7F && t.getV 15 == 1) = true := by decide
-- TA22l, and SHIFT_USES_VY by hand from R129
theorem test_shr_vf_and_vy :
    got 0x8F16 (regs [(15, 3)]) (fun t => t.getV 15 == 1) ∧
    ((regs [(0, 3), (1, 0xAA)]).shiftRight true 0 1).getV 0 = 0x55 := by decide
-- TA23, TA26
theorem test_shl :
    got 0x801E (regs [(0, 0x81), (1, 0x55)]) (fun t => t.getV 0 == 2 && t.getV 1 == 0x55 && t.getV 15 == 0x80) ∧
    got 0x8F1E (regs [(15, 0xC0)]) (fun t => t.getV 15 == 0x80) = true := by decide
-- the line under table A: SHL_FLAG_NORMALISED = true
theorem test_shl_normalised :
    ((regs [(0, 0x81)]).shiftLeft false true 0 1).getV 15 = 1 ∧
    ((regs [(15, 0xC0)]).shiftLeft false true 15 1).getV 15 = 1 := by decide
-- LOGIC_RESETS_VF by hand from 00_scope.md R4
theorem test_logic_resets_vf : ((regs [(15, 0x77)]).setLogicResult true 0 0xFF).getV 15 = 0 := by decide
-- TA31: whatever byte is drawn, the mask 0 leaves 0
theorem test_rnd (s : State) : ∃ t, exec (.rnd 3 0) s = .next t ∧ t.getV 3 = 0 ∧ t.draws = s.draws + 1 :=
  ⟨_, rfl, by simp [State.getV, State.setV, State.countDraw], rfl⟩

/-! ### Control transfer (table B), unknown words, fetch -/

-- TB1, TB2
theorem test_jp : got 0x1ABC (regs []) (fun t => t.pc == 0xABC) ∧ got 0x1200 (regs []) (fun t => t.pc == 0x200) = true := by
  decide
-- TB3
theorem test_call : got 0x2ABC (regs []) (fun t => t.pc == 0xABC && t.stack == [0x202]) = true := by decide
-- TI5
theorem test_call_overflow : got 0x2300 { State.reset with stack := List.replicate 16 0x204 }
    (fun t => t.halted && t.fault == .stackOverflow && t.faultAddr == 0x200 && t.faultInfo == 0x202 && t.pc == 0x202 &&
      t.stack.length == 16 && t.outputs == [.fault .stackOverflow 0x200 0x202]) = true := by decide
-- TB4
theorem test_ret : got 0x00EE { State.reset with stack := [0x204] } (fun t => t.pc == 0x204 && t.stack == []) = true := by
  decide
-- TB5, TB6
theorem test_ret_underflow : got 0x0FEE (regs [])
    (fun t => t.halted && t.fault == .stackUnderflow && t.faultAddr == 0x200 && t.faultInfo == 0 && t.pc == 0x202) =
    true := by decide
-- TB9
theorem test_sys : got 0x0123 (regs []) (fun t => t.pc == 0x202 && t.outputs == [.unknownOpcode 0x0123 0x200]) = true := by
  decide
-- TA28, TD25
theorem test_unknown :
    got 0x8018 (regs [(0, 1), (1, 2)])
      (fun t => t.pc == 0x202 && t.getV 0 == 1 && t.outputs == [.unknownOpcode 0x8018 0x200]) ∧
    got 0xF075 (regs []) (fun t => t.pc == 0x202 && t.outputs == [.unknownOpcode 0xF075 0x200]) = true := by decide
-- TB11, TB12
theorem test_seImm :
    got 0x3042 (regs [(0, 0x42)]) (fun t => t.pc == 0x204) ∧ got 0x3042 (regs [(0, 0x43)]) (fun t => t.pc == 0x202) =
    true := by decide
-- TB13, TB14
theorem test_sneImm :
    got 0x4042 (regs [(0, 0x42)]) (fun t => t.pc == 0x202) ∧ got 0x4042 (regs [(0, 0x43)]) (fun t => t.pc == 0x204) =
    true := by decide
-- TB16, TB17
theorem test_seReg :
    got 0x5010 (regs [(0, 7), (1, 8)]) (fun t => t.pc == 0x202) ∧ got 0x501F (regs [(0, 7), (1, 7)]) (fun t => t.pc == 0x204) =
    true := by decide
-- TB19, TB21
theorem test_sneReg :
    got 0x9010 (regs [(0, 7), (1, 7)]) (fun t => t.pc == 0x202) ∧ got 0x9013 (regs [(0, 7), (1, 8)]) (fun t => t.pc == 0x204) =
    true := by decide
-- TB24
theorem test_jpV0 : got 0xBFFF (regs [(0, 0xFF)]) (fun t => t.pc == 0x10FE) = true := by decide
-- TI1, TI2
theorem test_fetch_out_of_range :
    does .instrStrobe { State.reset with pc := 0xFFF } (fun t => t.halted && t.fault == .programCounterOutOfRange &&
      t.faultAddr == 0xFFF && t.faultInfo == 0xFFF && t.pc == 0xFFF) ∧
    does .instrStrobe { State.reset with pc := 0x1000 } (fun t => t.halted && t.faultInfo == 0x1000) = true := by decide
-- TI3
theorem test_fetch_last : got 0x6005 { State.reset with pc := 0xFFE } (fun t => t.pc == 0x1000 && t.getV 0 == 5 && !t.halted) =
    true := by decide
-- P7: an odd pc
theorem test_fetch_odd : got 0x6A55 { State.reset with pc := 0x203 } (fun t => t.pc == 0x205 && t.getV 10 == 0x55) = true := by
  decide

/-! ### Index register and memory (table D) -/

-- TD1
theorem test_ldI : got 0xAFFF (regs []) (fun t => t.i == 0xFFF) = true := by decide
-- TD2, TD3
theorem test_addI :
    got 0xF01E ((regs [(0, 0xFF), (15, 2)]).setI 0xFFF) (fun t => t.i == 0x10FE && t.getV 15 == 2) ∧
    got 0xF01E ((regs [(0, 0xFF)]).setI 0xFF01) (fun t => t.i == 0) = true := by decide
-- TD8, TD9
theorem test_ldF :
    got 0xF029 (regs [(0, 0x1A)]) (fun t => t.i == 0x32) ∧ got 0xF029 (regs [(0, 0xFF)]) (fun t => t.i == 0x4B) = true := by
  decide
-- R47: the sixteen glyphs, in two halves
theorem test_font_low :
    State.reset.readBytes 0 5 = [0xF0, 0x90, 0x90, 0x90, 0xF0] ∧ State.reset.readBytes 5 5 = [0x20, 0x60, 0x20, 0x20, 0x70] ∧
    State.reset.readBytes 10 5 = [0xF0, 0x10, 0xF0, 0x80, 0xF0] ∧ State.reset.readBytes 15 5 = [0xF0, 0x10, 0xF0, 0x10, 0xF0] ∧
    State.reset.readBytes 20 5 = [0x90, 0x90, 0xF0, 0x10, 0x10] ∧ State.reset.readBytes 25 5 = [0xF0, 0x80, 0xF0, 0x10, 0xF0] ∧
    State.reset.readBytes 30 5 = [0xF0, 0x80, 0xF0, 0x90, 0xF0] ∧ State.reset.readBytes 35 5 = [0xF0, 0x10, 0x20, 0x40, 0x40] := by
  decide
theorem test_font_high :
    State.reset.readBytes 40 5 = [0xF0, 0x90, 0xF0, 0x90, 0xF0] ∧ State.reset.readBytes 45 5 = [0xF0, 0x90, 0xF0, 0x10, 0xF0] ∧
    State.reset.readBytes 50 5 = [0xF0, 0x90, 0xF0, 0x90, 0x90] ∧ State.reset.readBytes 55 5 = [0xE0, 0x90, 0xE0, 0x90, 0xE0] ∧
    State.reset.readBytes 60 5 = [0xF0, 0x80, 0x80, 0x80, 0xF0] ∧ State.reset.readBytes 65 5 = [0xE0, 0x90, 0x90, 0x90, 0xE0] ∧
    State.reset.readBytes 70 5 = [0xF0, 0x80, 0xF0, 0x80, 0xF0] ∧ State.reset.readBytes 75 5 = [0xF0, 0x80, 0xF0, 0x80, 0x80] := by
  decide
-- TD11, TD10
theorem test_ldB :
    got 0xF033 ((regs [(0, 0xFF)]).setI 0xFFD) (fun t => t.readBytes 0xFFD 3 == [2, 5, 5] && t.i == 0xFFD) ∧
    got 0xF033 ((regs [(0, 0x64)]).setI 0x300) (fun t => t.readBytes 0x300 3 == [1, 0, 0]) = true := by decide
-- TD12
theorem test_ldB_fault : got 0xF033 ((regs [(0, 0xFF)]).setI 0xFFE) (fun t => t.halted && t.fault == .memoryOutOfRange &&
    t.faultAddr == 0x200 && t.faultInfo == 0x1000 && t.pc == 0x202 && t.readBytes 0xFFE 2 == [0, 0]) = true := by decide
-- TD16
theorem test_ldMemVx : got 0xF255 ((regs [(0, 0xAA), (1, 0xBB), (2, 0xCC)]).setI 0x300)
    (fun t => t.readBytes 0x300 4 == [0xAA, 0xBB, 0xCC, 0] && t.i == 0x300) = true := by decide
-- TD18
theorem test_ldMemVx_fault : got 0xFF55 ((regs [(0, 0xAA)]).setI 0xFF1)
    (fun t => t.halted && t.faultInfo == 0x1000 && t.readByte 0xFF1 == 0) = true := by decide
-- TD19
theorem test_ldVxMem : got 0xF265 (at' 0x300 [1, 2, 3, 4] (regs []))
    (fun t => t.regsUpTo 3 == [1, 2, 3, 0] && t.i == 0x300) = true := by decide
-- TD14, TD21
theorem test_ldVxMem_fault :
    got 0xF065 ((regs []).setI 0xFFFF) (fun t => t.fault == .memoryOutOfRange && t.faultInfo == 0xFFFF) ∧
    got 0xF165 (at' 0xFFF [0x5A] (regs [])) (fun t => t.faultInfo == 0x1000 && t.getV 0 == 0) = true := by decide

/-! ### Display (table E, table F) -/

-- TE16, TB7
theorem test_cls : got 0x01E0 (lit (4, 5) (regs [(0, 5)]))
    (fun t => litIn t [4] == [] && t.changed && t.getV 0 == 5) = true := by decide
-- TE2
theorem test_drw_wraps_column : got 0xD011 (at' 0x300 [0xFF] (regs [(0, 0x3E), (1, 0x1F)]))
    (fun t => litIn t [31] == [(31, 0), (31, 1), (31, 2), (31, 3), (31, 4), (31, 5), (31, 62), (31, 63)] &&
      litIn t [0, 1, 30] == [] && t.getV 15 == 0) = true := by decide
-- TE9
theorem test_drw_collision : got 0xD011 (lit (0, 1) (at' 0x300 [0xC0] (regs [])))
    (fun t => litIn t [0] == [(0, 0)] && t.getV 15 == 1 && t.changed) = true := by decide
-- TE13
theorem test_drw_height_zero : got 0xD010 ((regs [(15, 7)]).setI 0xFFFF)
    (fun t => !t.halted && t.getV 15 == 0 && t.changed) = true := by decide
-- TE15
theorem test_drw_fault : got 0xD00F ((regs [(15, 7)]).setI 0xFF2)
    (fun t => t.halted && t.fault == .memoryOutOfRange && t.faultInfo == 0x1000 && t.getV 15 == 7 && !t.changed) = true := by
  decide
-- TF1, TF2
theorem test_renderConsume :
    does .renderConsume { State.reset with changed := true }
      (fun t => !t.changed && t.outputs == [.frame State.reset.disp]) ∧
    does .renderConsume State.reset (fun t => t.outputs == []) = true := by decide

/-! ### Keypad (table G) -/

-- TG4, TG1
theorem test_skp :
    got 0xE29E ((regs [(2, 0x13)]).setKey 3 true) (fun t => t.pc == 0x204 && t.key 3 == false) ∧
    got 0xE29E (regs [(2, 5)]) (fun t => t.pc == 0x202 && t.key 5 == false) = true := by decide
-- TG5, TG6
theorem test_sknp :
    got 0xE2A1 (regs [(2, 5)]) (fun t => t.pc == 0x204) ∧
    got 0xE2A1 ((regs [(2, 5)]).setKey 5 true) (fun t => t.pc == 0x202 && t.key 5) = true := by decide
-- TG8
theorem test_ldVxK : got 0xF30A ((regs []).setKey 9 true)
    (fun t => t.pc == 0x202 && t.waiting && t.waitReg == 3 && t.getV 3 == 0) = true := by decide
-- TG9, TG10
theorem test_keyEvent_waiting :
    does (.keyEvent 10 true) { State.reset with waiting := true, waitReg := 3 }
      (fun t => t.getV 3 == 10 && !t.waiting && t.key 10) ∧
    does (.keyEvent 10 false) { State.reset with waiting := true, waitReg := 3 } (fun t => t.waiting && t.getV 3 == 0) =
    true := by decide
-- TG13
theorem test_keyEvent_ignored : does (.keyEvent 16 true) { State.reset with waiting := true }
    (fun t => t.waiting && t.keys == State.reset.keys) = true := by decide

/-! ### Timers (table H) -/

-- TH2
theorem test_ldVxDT : got 0xF407 { State.reset with dt := 0x3C } (fun t => t.getV 4 == 0x3C && t.dt == 0x3C) = true := by
  decide
-- TH1
theorem test_ldDTVx : got 0xF415 (regs [(4, 0x3C)]) (fun t => t.dt == 0x3C && t.st == 0) = true := by decide
-- TH3
theorem test_ldSTVx : got 0xF118 (regs [(1, 2)]) (fun t => t.st == 2 && t.dt == 0 && t.outputs == []) = true := by decide
-- TH8, TI8
theorem test_tick :
    does .timerStrobe { State.reset with st := 1 } (fun t => t.st == 0 && t.outputs == [.beepFlush, .beepAccumulate]) ∧
    does .timerStrobe { State.reset with halted := true, dt := 5, st := 5 }
      (fun t => t.dt == 4 && t.st == 4 && t.outputs == [.beepAccumulate]) = true := by decide
-- TH5
theorem test_tick_at_zero : does .timerStrobe State.reset (fun t => t.dt == 0 && t.st == 0 && t.outputs == []) = true := by
  decide

/-! ### Host operations (tables I and J) -/

-- TI7
theorem test_strobe_halted : does .instrStrobe { State.reset with halted := true, fault := .stackUnderflow }
    (fun t => t.pc == 0x200 && t.outputs == []) = true := by decide
-- TI10
theorem test_reset : does .reset { State.reset with halted := true, fault := .stackUnderflow, pc := 0x202, i := 7 }
    (fun t => !t.halted && t.fault == .none && t.pc == 0x200 && t.i == 0) = true := by decide
-- TJ2
theorem test_load : does (.load [0x60, 0x05]) (at' 0x202 [1, 2] (regs [(0, 9)]))
    (fun t => t.readBytes 0x200 4 == [0x60, 0x05, 0, 0] && t.getV 0 == 0 && t.i == 0 && t.outputs == [.loadOk]) = true := by
  decide
-- S4, the edge: 3585 bytes
theorem test_load_too_long : does (.load (List.replicate 3585 0)) (regs [(0, 9)])
    (fun t => t.getV 0 == 9 && t.outputs == [.loadError]) = true := by decide +kernel
-- TJ4
theorem test_decreaseRate : ∃ t, hostStep .decreaseRate { State.reset with rate := 0 } = .next t ∧ t.rate = 0 :=
  ⟨_, rfl, Nat.zero_sub _⟩
-- TJ3, TJ5
theorem test_cycle_rate_zero :
    does (.cycle 16) { State.reset with rate := 0, dt := 3 } (fun t => t.pc == 0x200 && t.dt == 3 && t.tTimer == 0) ∧
    does (.cycle 17) { State.reset with rate := 0, dt := 3 } (fun t => t.pc == 0x200 && t.dt == 2 && t.tTimer == 17) =
    true := by decide
-- by hand from R266: 1000 instructions a second fire after 1 ms, and not in the same millisecond
theorem test_cycle_fires :
    does (.cycle 1) { State.reset with rate := 1000 } (fun t => t.pc == 0x202 && t.tInstr == 1) ∧
    does (.cycle 1) { State.reset with rate := 1000, tInstr := 1 } (fun t => t.pc == 0x200) = true := by decide
-- by hand from log 10: a placed word runs as the next step
theorem test_withFetchWord :
    (match step (State.reset.withFetchWord 16 0x6A7F) with
      | .next t => t.getV 10 == 0x7F
      | _ => false) = true := by decide

/-! ### Witnesses: every obligation's hypotheses can be met -/

theorem witness_DecodeEncodeRoundTrip : (Instr.sys 0x0EF).WellFormed ∧ (Instr.drw 15 15 15).WellFormed := by decide
theorem witness_DecodeAgreesWithOpcodeMap : decode 0xFF65 = .ok (.ldVxMem 15) := by decide
theorem witness_UnknownWords_each_group :
    decode 0x00EF = .ok (.sys 0x0EF) ∧ decode 0x800D = .error (.unknownOpcode 0x800D) ∧
    decode 0xE000 = .error (.unknownOpcode 0xE000) ∧ decode 0xFFFF = .error (.unknownOpcode 0xFFFF) := by decide
theorem witness_DontCareBitsIgnored :
    (0x5010 : Word).toNat / 16 = (0x501F : Word).toNat / 16 ∧ (0x501F : Word).toNat / 4096 = 5 ∧
    (0x00E0 : Word).toNat % 256 = (0x0FE0 : Word).toNat % 256 ∧ (0x0FE0 : Word).toNat / 4096 = 0 := by decide
/-- CLS, RET, and the lowest and highest words of the rows that DecodesAs is stated for match their rows. -/
theorem witness_DecodesAs_byte_rows :
    OpcodeRow.Matches ⟨0x00E0, 0xF0FF⟩ 0x0FE0 ∧ OpcodeRow.Matches ⟨0x00EE, 0xF0FF⟩ 0x0FEE ∧
    OpcodeRow.Matches ⟨0xE09E, 0xF0FF⟩ 0xEF9E ∧ OpcodeRow.Matches ⟨0xE0A1, 0xF0FF⟩ 0xEFA1 ∧
    OpcodeRow.Matches ⟨0xF007, 0xF0FF⟩ 0xFF07 ∧ OpcodeRow.Matches ⟨0xF00A, 0xF0FF⟩ 0xFF0A ∧
    OpcodeRow.Matches ⟨0xF015, 0xF0FF⟩ 0xFF15 ∧ OpcodeRow.Matches ⟨0xF018, 0xF0FF⟩ 0xFF18 ∧
    OpcodeRow.Matches ⟨0xF01E, 0xF0FF⟩ 0xFF1E ∧ OpcodeRow.Matches ⟨0xF029, 0xF0FF⟩ 0xFF29 ∧
    OpcodeRow.Matches ⟨0xF033, 0xF0FF⟩ 0xFF33 ∧ OpcodeRow.Matches ⟨0xF055, 0xF0FF⟩ 0xFF55 ∧
    OpcodeRow.Matches ⟨0xF065, 0xF0FF⟩ 0xFF65 := by decide
theorem witness_DecodesAs_group_rows :
    OpcodeRow.Matches ⟨0x1000, 0xF000⟩ 0x1FFF ∧ OpcodeRow.Matches ⟨0x2000, 0xF000⟩ 0x2FFF ∧
    OpcodeRow.Matches ⟨0x3000, 0xF000⟩ 0x3FFF ∧ OpcodeRow.Matches ⟨0x4000, 0xF000⟩ 0x4FFF ∧
    OpcodeRow.Matches ⟨0x5000, 0xF000⟩ 0x5FFF ∧ OpcodeRow.Matches ⟨0x6000, 0xF000⟩ 0x6FFF ∧
    OpcodeRow.Matches ⟨0x7000, 0xF000⟩ 0x7FFF ∧ OpcodeRow.Matches ⟨0x9000, 0xF000⟩ 0x9FFF ∧
    OpcodeRow.Matches ⟨0xA000, 0xF000⟩ 0xAFFF ∧ OpcodeRow.Matches ⟨0xB000, 0xF000⟩ 0xBFFF ∧
    OpcodeRow.Matches ⟨0xC000, 0xF000⟩ 0xCFFF ∧ OpcodeRow.Matches ⟨0xD000, 0xF000⟩ 0xDFFF := by decide
theorem witness_DecodesAs_nibble_rows :
    OpcodeRow.Matches ⟨0x8000, 0xF00F⟩ 0x8FF0 ∧ OpcodeRow.Matches ⟨0x8001, 0xF00F⟩ 0x8FF1 ∧
    OpcodeRow.Matches ⟨0x8002, 0xF00F⟩ 0x8FF2 ∧ OpcodeRow.Matches ⟨0x8003, 0xF00F⟩ 0x8FF3 ∧
    OpcodeRow.Matches ⟨0x8004, 0xF00F⟩ 0x8FF4 ∧ OpcodeRow.Matches ⟨0x8005, 0xF00F⟩ 0x8FF5 ∧
    OpcodeRow.Matches ⟨0x8006, 0xF00F⟩ 0x8FF6 ∧ OpcodeRow.Matches ⟨0x8007, 0xF00F⟩ 0x8FF7 ∧
    OpcodeRow.Matches ⟨0x800E, 0xF00F⟩ 0x8FFE := by decide

/-- Enabled, at the last address a word can be fetched from, with an instruction there. -/
def atEnd : State := State.writeBytes { State.reset with pc := 4094 } 4094 [0x60, 0x05]

theorem witness_StepRunsDecodedInstruction :
    atEnd.halted = false ∧ atEnd.waiting = false ∧ atEnd.pc.toNat ≤ 4094 ∧ atEnd.schedule = [] ∧
    decode (wordOfBytes (atEnd.readByte atEnd.pc.toNat) (atEnd.readByte (atEnd.pc.toNat + 1))) = .ok (.ldImm 0 5) := by
  decide
theorem witness_StepRunsDecodedInstruction_scheduled :
    ({ atEnd with schedule := [.instrStrobe, .timerStrobe] } : State).schedule = .instrStrobe :: [.timerStrobe] := by decide
theorem witness_Strobe_halted : ({ State.reset with halted := true } : State).halted = true := by decide
theorem witness_Strobe_waiting : ({ State.reset with waiting := true } : State).waiting = true := by decide
theorem witness_FetchOutOfRangeFaults :
    ({ State.reset with pc := 4095 } : State).halted = false ∧ ({ State.reset with pc := 4095 } : State).waiting = false ∧
    4094 < ({ State.reset with pc := 4095 } : State).pc.toNat := by decide
/-- Reset memory holds 0000 at pc, which is SYS; the last word of memory can be an unknown word of group 8. -/
theorem witness_UnknownWordStep_sys :
    State.reset.halted = false ∧ State.reset.waiting = false ∧ State.reset.pc.toNat ≤ 4094 ∧
    decode (wordOfBytes (State.reset.readByte 0x200) (State.reset.readByte 0x201)) = .ok (.sys 0) := by decide
theorem witness_UnknownWordStep_group8 :
    let s : State := State.writeBytes { State.reset with pc := 4094 } 4094 [0x80, 0x18]
    decode (wordOfBytes (s.readByte 4094) (s.readByte 4095)) = .error (.unknownOpcode 0x8018) := by decide
theorem witness_SysIsUnknownOpcode :
    (0x0FEF : Word) &&& 0xF000 = 0 ∧ nnField 0x0FEF ≠ 0xE0 ∧ nnField 0x0FEF ≠ 0xEE := by decide
theorem witness_RetResult_returns :
    ({ State.reset with stack := [0x204] } : State).stack = 0x204 :: [] := by decide
theorem witness_RetResult_underflow : State.reset.stack = [] := by decide
theorem witness_CallResult_room :
    ({ State.reset with stack := List.replicate 15 0x204 } : State).stack.length < 16 := by decide
theorem witness_CallResult_full :
    ({ State.reset with stack := List.replicate 16 0x204 } : State).stack.length = 16 := by decide
/-- The register file with V3 = 0x2A, as SE and SNE meet it, equal and different. -/
theorem witness_Skip_conditions :
    (regs [(3, 0x2A)]).getV 3 = 0x2A ∧ (regs [(3, 0x2B)]).getV 3 ≠ 0x2A ∧ (regs [(1, 7), (2, 7)]).getV 1 =
      (regs [(1, 7), (2, 7)]).getV 2 ∧ (regs [(1, 7), (2, 8)]).getV 1 ≠ (regs [(1, 7), (2, 8)]).getV 2 := by decide
/-- ShrResult and ShlResult: the shifted state and operand they name exist, under either setting. -/
theorem witness_Shift_operand :
    (3 : Nat) = (if false = true then (regs [(0, 3), (1, 0xAA)]).getV 1 else (regs [(0, 3), (1, 0xAA)]).getV 0).toNat ∧
    (0xAA : Nat) = (if true = true then (regs [(0, 3), (1, 0xAA)]).getV 1 else (regs [(0, 3), (1, 0xAA)]).getV 0).toNat := by
  decide
theorem witness_LdBResult_in_range : (State.reset.setI 0xFFD).i.toNat + 2 ≤ 4095 ∧ (State.reset.setI 0xFFD).mem.wf :=
  ⟨by decide, State.reset_mem_wf⟩
theorem witness_LdBResult_out_of_range : 4095 < (State.reset.setI 0xFFE).i.toNat + 2 := by decide
theorem witness_LdMemVx_LdVxMem_in_range :
    (State.reset.setI 0xFF0).i.toNat + (15 : Reg).val ≤ 4095 ∧ (State.reset.setI 0xFF0).mem.wf :=
  ⟨by decide, State.reset_mem_wf⟩
theorem witness_LdMemVx_LdVxMem_out_of_range : 4095 < (State.reset.setI 0xFF1).i.toNat + (15 : Reg).val := by decide
theorem witness_SaveRestoreRoundTrip :
    (State.reset.setI 0xFFF).mem.wf ∧ (State.reset.setI 0xFFF).i.toNat + (0 : Reg).val ≤ 4095 :=
  ⟨State.reset_mem_wf, by decide⟩
/-- Vector TD24: the save starts at pc. -/
theorem witness_StoredWordIsExecutedNext_first :
    let s : State := { regs [(0, 0x12), (1, 0x02)] with i := 0x202, pc := 0x202 }
    s.mem.wf ∧ s.halted = false ∧ s.waiting = false ∧ s.i.toNat ≤ s.pc.toNat ∧
    s.pc.toNat + 1 ≤ s.i.toNat + (1 : Reg).val ∧ s.i.toNat + (1 : Reg).val ≤ 4095 ∧
    (∃ t, exec (.ldMemVx 1) s = .next t) ∧ s.i.toNat + (0 : Reg).val = s.pc.toNat ∧ (1 : Reg).val = (0 : Reg).val + 1 :=
  ⟨State.reset_mem_wf, by decide, by decide, by decide, by decide, by decide, ⟨_, rfl⟩, by decide, by decide⟩
/-- The save's last two bytes, VE and VF, are the last word of memory. -/
theorem witness_StoredWordIsExecutedNext_last :
    let s : State := { regs [(14, 0x12), (15, 0x02)] with i := 0xFF0, pc := 0xFFE }
    s.mem.wf ∧ s.halted = false ∧ s.waiting = false ∧ s.i.toNat ≤ s.pc.toNat ∧
    s.pc.toNat + 1 ≤ s.i.toNat + (15 : Reg).val ∧ s.i.toNat + (15 : Reg).val ≤ 4095 ∧
    (∃ t, exec (.ldMemVx 15) s = .next t) ∧ s.i.toNat + (14 : Reg).val = s.pc.toNat ∧ (15 : Reg).val = (14 : Reg).val + 1 :=
  ⟨State.reset_mem_wf, by decide, by decide, by decide, by decide, by decide, ⟨_, rfl⟩, by decide, by decide⟩
/-- A state in which LD F V0 stands at the address of the instruction and the font is intact. -/
def atLdF : State := State.writeBytes { State.reset with pc := 0x202 } 0x200 [0xF0, 0x29]
theorem witness_LdFPointsAtGlyph :
    decode (wordOfBytes (atLdF.readByte 0x200) (atLdF.readByte 0x201)) = .ok (.ldF 0) ∧
    atLdF.readBytes 0 80 = fontData := by decide
theorem witness_LdFPointsAtGlyph_digits :
    ((regs [(0, 0x10)]).getV 0).toNat % 16 = 0 ∧ ((regs [(0, 0x01)]).getV 0).toNat % 16 = 1 ∧
    ((regs [(0, 0x1A)]).getV 0).toNat % 16 = 10 ∧ ((regs [(0, 0xFF)]).getV 0).toNat % 16 = 15 := by decide
theorem witness_DrwResult_last_row : (State.reset.setI 0xFF1).i.toNat + (15 : Fin 16).val - 1 ≤ 4095 := by decide
theorem witness_DrwResult_height_zero : (0 : Fin 16).val = 0 := by decide
theorem witness_DrwResult_out_of_range :
    0 < (15 : Fin 16).val ∧ 4095 < (State.reset.setI 0xFF2).i.toNat + (15 : Fin 16).val - 1 := by decide
/-- A place glyph 0 covers, and one it does not, when drawn at (0, 0) after reset. -/
theorem witness_DrwResult_covered : SpriteCovers State.reset 0 0 0 5 (0, 3) := ⟨0, 3, by decide⟩
theorem witness_DrwResult_not_covered : ¬ SpriteCovers State.reset 0 0 0 0 (0, 3) := by
  rintro ⟨r, -, h, -⟩
  omega
theorem witness_DrawTwiceIsIdentity :
    ∃ t u, exec (.drw 0 1 5) State.reset = .next t ∧ t.getV 0 = State.reset.getV 0 ∧ t.getV 1 = State.reset.getV 1 ∧
      t.i = State.reset.i ∧ (∀ r, r < (5 : Fin 16).val → t.readByte (State.reset.i.toNat + r) =
        State.reset.readByte (State.reset.i.toNat + r)) ∧ exec (.drw 0 1 5) t = .next u :=
  ⟨_, _, rfl, by decide, by decide, rfl, fun _ _ => rfl, rfl⟩
theorem witness_Skp_Sknp_key : (3 : Fin 16).val = ((regs [(2, 0x13)]).getV 2).toNat % 16 := by decide
theorem witness_Skp_Sknp_flags : ((regs []).setKey 3 true).key 3 = true ∧ (regs []).key 3 = false := by decide
/-- Every kind of quiet operation, the key events at their boundaries among them. -/
theorem witness_AwaitKeyProtocol : ∀ op ∈ [HostOp.instrStrobe, .timerStrobe, .keyEvent 16 true, .keyEvent 15 false,
    .renderConsume, .increaseRate, .decreaseRate, .cycle 17], Quiet op := by
  simp [Quiet]
theorem witness_KeyEventResult_not_waiting : State.reset.waiting = false ∨ true = false := by decide
theorem witness_KeyEventResult_release : ({ State.reset with waiting := true } : State).waiting = false ∨ false = false := by
  decide
theorem witness_KeyEventResult_waiting : ({ State.reset with waiting := true } : State).waiting = true := by decide
theorem witness_KeyEventResult_ignored : 15 < 16 := by decide
theorem witness_WaitingFreezesTheProgram_press :
    ∃ t, step { State.reset with waiting := true, schedule := [.keyEvent 15 true] } = .next t := ⟨_, rfl⟩
theorem witness_WaitingFreezesTheProgram_goes_on :
    ∃ t, step { State.reset with waiting := true, schedule := [.keyEvent 15 false] } = .next t ∧ t.waiting = true :=
  ⟨_, rfl, rfl⟩
theorem witness_OnlyAwaitKeySetsWaiting :
    ∃ t, step (State.writeBytes { State.reset with pc := 4094 } 4094 [0xF3, 0x0A]) = .next t ∧ t.waiting = true :=
  ⟨_, rfl, rfl⟩
theorem witness_TimerTickResult :
    (0 : Byte).toNat = 0 ∧ (1 : Byte).toNat = 1 ∧ 1 < (2 : Byte).toNat := by decide
theorem witness_RenderConsumeResult :
    ({ State.reset with changed := true } : State).changed = true ∧ State.reset.changed = false := by decide
/-- RATE_MAX is a number or none, whatever it is. -/
theorem witness_RateChangeResult : (∃ m, Config.rateMax = some m) ∨ Config.rateMax = none := by
  cases Config.rateMax <;> simp
theorem witness_CycleCallIsGated_fires :
    ({ State.reset with rate := 1000 } : State).rate ≠ 0 ∧ (((1 : Nat) : Int) - ((0 : Nat) : Int)) * ((1000 : Nat) : Int) ≥ 1000 := by
  decide
theorem witness_CycleCallIsGated_blocked :
    ¬ (({ State.reset with rate := 0 } : State).rate ≠ 0 ∧ (((1 : Nat) : Int) - ((0 : Nat) : Int)) * ((0 : Nat) : Int) ≥ 1000) := by
  decide
theorem witness_CycleCallIsGated_timer :
    (((17 : Nat) : Int) - ((0 : Nat) : Int)) * 60 ≥ 1000 ∧ ¬ (((16 : Nat) : Int) - ((0 : Nat) : Int)) * 60 ≥ 1000 := by decide
theorem witness_LoadResult_fits : (List.replicate 3584 (0 : Byte)).length ≤ 3584 :=
  Nat.le_of_eq (List.length_replicate ..)
theorem witness_LoadResult_too_long : 3584 < (List.replicate 3585 (0 : Byte)).length :=
  Nat.lt_of_lt_of_eq (Nat.lt_succ_self 3584) (List.length_replicate ..).symm
theorem witness_PlacedWordRunsNext :
    State.reset.mem.wf ∧ decodeTableWord 16 0xFFFF = none ∧ decodeTableWord 16 0xFF65 = some (.ldVxMem 15) :=
  ⟨State.reset_mem_wf, by decide, by decide⟩

theorem reset_inv : Inv State.reset where
  mem := State.reset_mem_wf
  depth := by simp [State.reset]
  entries := by simp [State.reset]
  pc := by simp [State.reset]
  latch := by simp [State.reset]
  fault := by simp [State.reset]

theorem witness_InvariantKept : Inv State.reset ∧ ∃ t, step State.reset = .next t := ⟨reset_inv, _, rfl⟩
theorem witness_WhoMayWriteWhat : ∃ t, exec (.ldImm 0 5) State.reset = .next t := ⟨_, rfl⟩
/-- An instruction outside every list of WhoMayWriteWhat. -/
theorem witness_WhoMayWriteWhat_outside :
    (∀ x, Instr.ldImm 0 5 ≠ .ldB x ∧ Instr.ldImm 0 5 ≠ .ldMemVx x) ∧ Instr.ldImm 0 5 ≠ .cls ∧
    (∀ x y n, Instr.ldImm 0 5 ≠ .drw x y n) ∧ (∀ x, Instr.ldImm 0 5 ≠ .skp x) ∧ Instr.ldImm 0 5 ≠ .ret ∧
    (∀ nnn, Instr.ldImm 0 5 ≠ .call nnn) := by simp
theorem witness_RegistersOutsideDestinationsKept : (14 : Reg) ∉ destRegs (.ldVxMem 13) ∧ (0 : Reg) ∉ destRegs (.shl 1 0) := by
  decide
theorem witness_FaultsArePrecise_ret :
    State.reset.halted = false ∧ ∃ t, exec .ret State.reset = .next t ∧ t.halted = true := ⟨by decide, _, rfl, rfl⟩
theorem witness_FaultsArePrecise_call :
    ∃ t, exec (.call 0x300) { State.reset with stack := List.replicate 16 0 } = .next t ∧ t.halted = true := ⟨_, rfl, rfl⟩
theorem witness_FaultsArePrecise_memory :
    ∃ t, exec (.ldVxMem 1) (State.reset.setI 0xFFF) = .next t ∧ t.halted = true := ⟨_, rfl, rfl⟩
theorem witness_HaltedIsFrozen :
    let s : State := { State.reset with halted := true, fault := .stackUnderflow, schedule := [.timerStrobe] }
    s.halted = true ∧ s.waiting = false ∧ (∃ t, step s = .next t) ∧ (∀ rest, s.schedule ≠ .reset :: rest) ∧
    (∀ blob rest, s.schedule = .load blob :: rest → 3584 < blob.length) :=
  ⟨by decide, by decide, ⟨_, rfl⟩, by simp, by simp⟩
theorem witness_OnlyTheHostClearsChanged :
    ∃ t, step { State.reset with changed := true, schedule := [.renderConsume] } = .next t ∧ t.changed = false :=
  ⟨_, rfl, rfl⟩
theorem witness_OnlyTheHostClearsChanged_draws :
    (∃ t, exec .cls State.reset = .next t) ∧ ((0 : Fin 16).val = 0 ∨ State.reset.i.toNat + (0 : Fin 16).val - 1 ≤ 4095) ∧
    ∃ t, exec (.drw 0 0 0) State.reset = .next t := ⟨⟨_, rfl⟩, by decide, _, rfl⟩
theorem witness_FlagRegisterAsOperand : (14 : Reg) ≠ 15 := by decide

end Sys2Proof.Tests
end

section
/-!
What ADD Vx, Vy leaves in VF and V[x] (41_load_arith.md R127) when VF is itself an operand (00_scope.md R7, 10_state.md
R11).
-/

namespace Sys2Proof.Machine

/-! ### The carry of an 8-bit sum -/

theorem toNat_flagOf (c : Bool) : (flagOf c).toNat = if c then 1 else 0 := by
  cases c <;> rfl

theorem toNat_carryFlag (a b : Byte) : (carryFlag a b).toNat = (a.toNat + b.toNat) / 256 := by
  have ha := a.isLt
  have hb := b.isLt
  rw [carryFlag, toNat_flagOf]
  simp only [decide_eq_true_eq]
  split <;> omega

/-- The carry and the byte of the sum together are the exact sum. -/
theorem toNat_carryFlag_mul_add_toNat_add (a b : Byte) :
    (carryFlag a b).toNat * 256 + (a + b).toNat = a.toNat + b.toNat := by
  rw [toNat_carryFlag, BitVec.toNat_add]
  exact Nat.div_add_mod' _ 256

/-! ### The registers after ADD Vx, Vy -/

theorem exec_addReg (x y : Reg) (s : State) :
    exec (.addReg x y) s =
      .next (s.setResultThenFlag x (s.getV x + s.getV y) (carryFlag (s.getV x) (s.getV y))) := rfl

theorem State.getV_setResultThenFlag_flagReg (s : State) (x : Reg) (r f : Byte) :
    (s.setResultThenFlag x r f).getV flagReg = f := by
  rw [State.getV_setResultThenFlag, if_pos rfl]

theorem State.getV_setResultThenFlag_result (s : State) {x : Reg} (hx : x ≠ flagReg) (r f : Byte) :
    (s.setResultThenFlag x r f).getV x = r := by
  rw [State.getV_setResultThenFlag, if_neg hx, if_pos rfl]

/-- VF holds the carry of the old operands, whichever registers they are. -/
theorem exec_addReg_carry (x y : Reg) (s : State) :
    ∃ t, exec (.addReg x y) s = .next t ∧
      (t.getV flagReg).toNat = ((s.getV x).toNat + (s.getV y).toNat) / 256 := by
  refine ⟨_, exec_addReg x y s, ?_⟩
  rw [State.getV_setResultThenFlag_flagReg, toNat_carryFlag]

/-- VF and V[x] together hold the exact sum of the old operands, y being VF or x as well as any other register. -/
theorem exec_addReg_exact_sum {x : Reg} (hx : x ≠ flagReg) (y : Reg) (s : State) :
    ∃ t, exec (.addReg x y) s = .next t ∧
      (t.getV flagReg).toNat * 256 + (t.getV x).toNat = (s.getV x).toNat + (s.getV y).toNat := by
  refine ⟨_, exec_addReg x y s, ?_⟩
  rw [State.getV_setResultThenFlag_flagReg, State.getV_setResultThenFlag_result s hx,
    toNat_carryFlag_mul_add_toNat_add]

/-- Settles O60: the carry for ADD VF, Vy, and the exact sum for ADD Vx, VF and for ADD Vx, Vx. -/
theorem flagRegisterAsOperand : Obligations.FlagRegisterAsOperand := by
  intro s
  refine ⟨fun y => exec_addReg_carry 15 y s, fun x hx => exec_addReg_exact_sum hx 15 s, fun x hx => ?_⟩
  rw [Nat.two_mul]
  exact exec_addReg_exact_sum hx x s

end Sys2Proof.Machine
end

section
/-!
What the instructions that can fault answer, said once each: RET and CALL by the call stack (40_fetch_and_control.md
R96, R98), the memory instructions by the range check (20_memory.md R45).
-/

namespace Sys2Proof.Machine

/-! ### The call stack -/

/-- RET pops to pc, or faults on an empty stack (R96). -/
theorem execRet_cases (s : State) :
    (s.stack = [] ∧ execRet s = .next (raise s.instrAddr ⟨.stackUnderflow, 0⟩ s)) ∨
    (∃ a rest, s.stack = a :: rest ∧ execRet s = .next (State.jump { s with stack := rest } a)) := by
  cases h : s.stack with
  | nil => exact .inl ⟨rfl, by rw [execRet, State.pop_nil h, State.complete_error]⟩
  | cons a rest => exact .inr ⟨a, rest, rfl, by rw [execRet, State.pop_cons h, State.complete_ok]⟩

/-- CALL pushes pc and jumps, or faults on a full stack (R98). -/
theorem execCall_cases (nnn : Addr) (s : State) :
    (s.stack.length < 16 ∧
      execCall nnn s = .next (State.jump { s with stack := s.pc :: s.stack } (addrOperand nnn))) ∨
    (16 ≤ s.stack.length ∧ execCall nnn s = .next (raise s.instrAddr ⟨.stackOverflow, s.pc⟩ s)) := by
  rcases Nat.lt_or_ge s.stack.length 16 with h | h
  · exact .inl ⟨h, by rw [execCall, State.push_of_lt h, State.complete_ok]⟩
  · exact .inr ⟨h, by rw [execCall, State.push_of_full h, State.complete_error]⟩

/-! ### The range check -/

/-- The answer r of an instruction that checks `count` bytes from I before it changes anything: t when they are all in
memory, and otherwise s with nothing but MemoryOutOfRange entered (20_memory.md R45). -/
def RangeChecked (s : State) (count : Nat) (r : Result) (t : State) : Prop :=
  (InRange s.i count ∧ r = .next t) ∨
  (¬ InRange s.i count ∧ r = .next (raise s.instrAddr ⟨.memoryOutOfRange, firstBad s.i⟩ s))

/-- A completion that follows the range check is range-checked. -/
theorem rangeChecked_complete {s t : State} {count : Nat} {r : Except Trap State}
    (hok : checkRange s.i count = .ok () → r = .ok t)
    (herr : ∀ trap, checkRange s.i count = .error trap → r = .error trap) :
    RangeChecked s count (s.complete r) t := by
  rcases checkRange_eq s.i count with ⟨hr, hc⟩ | ⟨hr, hc⟩
  · exact .inl ⟨hr, by rw [hok hc, State.complete_ok]⟩
  · exact .inr ⟨hr, by rw [herr _ hc, State.complete_error]⟩

/-- What holds after the completion and after the fault holds after a range-checked answer. -/
theorem RangeChecked.exists_next {s t : State} {count : Nat} {r : Result} {P : State → Prop}
    (h : RangeChecked s count r t) (hok : InRange s.i count → P t)
    (herr : P (raise s.instrAddr ⟨.memoryOutOfRange, firstBad s.i⟩ s)) : ∃ u, r = .next u ∧ P u := by
  rcases h with ⟨hr, h⟩ | ⟨-, h⟩
  · exact ⟨t, h, hok hr⟩
  · exact ⟨_, h, herr⟩

theorem InRange.add_le {base : Word} {count : Nat} (h : InRange base count) (hc : 0 < count) :
    base.toNat + count ≤ 4096 :=
  h.resolve_left (Nat.ne_of_gt hc)

theorem execDrw_rangeChecked (x y : Reg) (n : Fin 16) (s : State) :
    RangeChecked s n.val (execDrw x y n s)
      (s.draw (s.getV x) (s.getV y) (s.readBytes s.i.toNat n.val)) :=
  rangeChecked_complete (fun h => by rw [h]) (fun _ h => by rw [h])

theorem execLdB_rangeChecked (x : Reg) (s : State) :
    RangeChecked s 3 (execLdB x s) (s.writeBytes s.i.toNat (bcdDigits (s.getV x))) :=
  rangeChecked_complete (fun h => by rw [h]) (fun _ h => by rw [h])

theorem saveRegs_rangeChecked (increments : Bool) (x : Reg) (s : State) :
    RangeChecked s (x.val + 1) (saveRegs increments x s)
      ((s.writeBytes s.i.toNat (s.regsUpTo x)).setI (indexAfter increments s.i x)) :=
  rangeChecked_complete (fun h => by rw [h]) (fun _ h => by rw [h])

theorem restoreRegs_rangeChecked (increments : Bool) (x : Reg) (s : State) :
    RangeChecked s (x.val + 1) (restoreRegs increments x s)
      ((s.setRegs (s.readBytes s.i.toNat (x.val + 1))).setI (indexAfter increments s.i x)) :=
  rangeChecked_complete (fun h => by rw [h]) (fun _ h => by rw [h])

end Sys2Proof.Machine
end

section
/-!
The invariant of the machine is kept by every step: first the rules, one per way an operation touches the fields the
invariant reads, then the instructions, the instruction strobe, the host's operations and the step.
-/

namespace Sys2Proof.Machine

/-! ### What keeps the invariant -/

/-- The invariant reads only memory, the call stack, pc, HALTED, WAITING and FAULT. -/
theorem Inv.congr {s t : State} (h : Inv s) (mem : t.mem = s.mem := by rfl)
    (stack : t.stack = s.stack := by rfl) (pc : t.pc = s.pc := by rfl)
    (halted : t.halted = s.halted := by rfl) (waiting : t.waiting = s.waiting := by rfl)
    (fault : t.fault = s.fault := by rfl) : Inv t where
  mem := mem ▸ h.mem
  depth := stack ▸ h.depth
  entries := stack ▸ h.entries
  pc := pc ▸ h.pc
  latch := halted ▸ waiting ▸ h.latch
  fault := halted ▸ fault ▸ h.fault

theorem Inv.jump {s : State} (h : Inv s) {a : Word} (ha : a.toNat ≤ 0x10FE) : Inv (s.jump a) :=
  { h with pc := ha }

theorem Inv.withStack {s : State} (h : Inv s) {stack : List Word} (depth : stack.length ≤ 16)
    (entries : ∀ a ∈ stack, a.toNat ≤ 4096) : Inv { s with stack := stack } :=
  { h with depth := depth, entries := entries }

theorem Inv.writeBytes {s : State} (h : Inv s) {base : Nat} {bs : List Byte}
    (hb : base + bs.length ≤ 4096) : Inv (s.writeBytes base bs) :=
  { h with mem := Memory.writeBytes_wf h.mem hb }

/-- A core that is not waiting may enter a fault (60_exceptions.md R213). -/
theorem Inv.raise {s : State} (h : Inv s) (hw : s.waiting = false) (a : Word) {trap : Trap}
    (hc : trap.code ≠ .none) : Inv (raise a trap s) :=
  { h with
    latch := by simp [hw]
    fault := by simpa using hc }

/-- A core that is not halted may start to wait (44_keypad.md R188). -/
theorem Inv.startWait {s : State} (h : Inv s) (hh : s.halted = false) (x : Reg) :
    Inv { s with waiting := true, waitReg := x } :=
  { h with latch := by simp [hh] }

theorem Inv.endWait {s : State} (h : Inv s) : Inv { s with waiting := false } :=
  { h with latch := by simp }

theorem inv_doReset (s : State) : Inv s.doReset where
  mem := State.reset_mem_wf
  depth := by simp [State.reset]
  entries := by simp [State.reset]
  pc := by simp [State.reset]
  latch := by simp [State.reset]
  fault := by simp [State.reset]

/-! ### Instructions -/

/-- What an instruction starts from: the invariant, a running core, and pc just past a word of memory
(40_fetch_and_control.md R90 to R92). -/
structure Fetched (s : State) : Prop where
  inv : Inv s
  running : s.halted = false
  notWaiting : s.waiting = false
  pc : s.pc.toNat ≤ 4096

/-- In this range pc + 2 does not wrap (10_state.md R15). -/
theorem toNat_add_two {pc : Word} (hp : pc.toNat ≤ 4096) : (pc + 2).toNat = pc.toNat + 2 := by
  bv_omega

theorem Inv.fetched {s : State} (h : Inv s) (hh : s.halted = false) (hw : s.waiting = false)
    (hp : s.pc.toNat ≤ 4094) : Fetched { s with pc := s.pc + 2 } := by
  have hpc := toNat_add_two (pc := s.pc) (by omega)
  exact ⟨h.jump (by omega), hh, hw, by simp only; omega⟩

theorem Fetched.inv_raise {s : State} (h : Fetched s) {trap : Trap} (hc : trap.code ≠ .none) :
    Inv (raise s.instrAddr trap s) :=
  h.inv.raise h.notWaiting _ hc

/-- A skip moves pc to 4098 at most (10_state.md R15). -/
theorem Fetched.inv_skipIf {s : State} (h : Fetched s) (c : Bool) : Inv (s.skipIf c) := by
  have hp := h.pc
  refine h.inv.jump ?_
  split
  · rw [toNat_add_two hp]
    omega
  · omega

theorem toNat_addrOperand (nnn : Addr) : (addrOperand nnn).toNat = nnn.toNat :=
  BitVec.toNat_setWidth_of_le (by decide)

theorem toNat_wordOperand (b : Byte) : (wordOperand b).toNat = b.toNat :=
  BitVec.toNat_setWidth_of_le (by decide)

theorem Inv.jump_addrOperand {s : State} (h : Inv s) (nnn : Addr) : Inv (s.jump (addrOperand nnn)) :=
  h.jump (by rw [toNat_addrOperand]; omega)

/-- JP V0 reaches 0xFFF + 0xFF = 0x10FE at most (40_fetch_and_control.md R103). -/
theorem Inv.jump_addrOperand_add {s : State} (h : Inv s) (nnn : Addr) (b : Byte) :
    Inv (s.jump (addrOperand nnn + wordOperand b)) := by
  refine h.jump ?_
  rw [BitVec.toNat_add, toNat_addrOperand, toNat_wordOperand]
  omega

theorem Fetched.inv_execRet {s : State} (h : Fetched s) : ∃ t, execRet s = .next t ∧ Inv t := by
  rcases execRet_cases s with ⟨-, he⟩ | ⟨a, rest, hs, he⟩
  · exact ⟨_, he, h.inv_raise nofun⟩
  · have hdepth := h.inv.depth
    have hentries := h.inv.entries
    rw [hs] at hdepth hentries
    obtain ⟨ha, hrest⟩ := List.forall_mem_cons.1 hentries
    exact ⟨_, he, (h.inv.withStack (Nat.le_of_succ_le hdepth) hrest).jump (by omega)⟩

theorem Fetched.inv_execCall {s : State} (h : Fetched s) (nnn : Addr) :
    ∃ t, execCall nnn s = .next t ∧ Inv t := by
  rcases execCall_cases nnn s with ⟨hlt, he⟩ | ⟨-, he⟩
  · have hentries : ∀ a ∈ s.pc :: s.stack, a.toNat ≤ 4096 := List.forall_mem_cons.2 ⟨h.pc, h.inv.entries⟩
    exact ⟨_, he, (h.inv.withStack (stack := s.pc :: s.stack) hlt hentries).jump_addrOperand nnn⟩
  · exact ⟨_, he, h.inv_raise nofun⟩

theorem Fetched.inv_execDrw {s : State} (h : Fetched s) (x y : Reg) (n : Fin 16) :
    ∃ t, execDrw x y n s = .next t ∧ Inv t :=
  (execDrw_rangeChecked x y n s).exists_next (fun _ => h.inv.congr) (h.inv_raise nofun)

theorem Fetched.inv_execLdB {s : State} (h : Fetched s) (x : Reg) :
    ∃ t, execLdB x s = .next t ∧ Inv t :=
  (execLdB_rangeChecked x s).exists_next
    (fun hr => h.inv.writeBytes (by rw [length_bcdDigits]; exact hr.add_le (by omega)))
    (h.inv_raise nofun)

theorem Fetched.inv_saveRegs {s : State} (h : Fetched s) (increments : Bool) (x : Reg) :
    ∃ t, saveRegs increments x s = .next t ∧ Inv t :=
  (saveRegs_rangeChecked increments x s).exists_next
    (fun hr => (h.inv.writeBytes (by rw [length_regsUpTo]; exact hr.add_le (by omega))).congr)
    (h.inv_raise nofun)

theorem Fetched.inv_restoreRegs {s : State} (h : Fetched s) (increments : Bool) (x : Reg) :
    ∃ t, restoreRegs increments x s = .next t ∧ Inv t :=
  (restoreRegs_rangeChecked increments x s).exists_next (fun _ => h.inv.congr) (h.inv_raise nofun)

/-- Every instruction keeps the invariant. -/
theorem Fetched.inv_exec {s : State} (h : Fetched s) (i : Instr) : ∃ t, exec i s = .next t ∧ Inv t := by
  cases i with
  | ret => exact h.inv_execRet
  | call nnn => exact h.inv_execCall nnn
  | jp nnn => exact ⟨_, rfl, h.inv.jump_addrOperand nnn⟩
  | jpV0 nnn => exact ⟨_, rfl, h.inv.jump_addrOperand_add nnn _⟩
  | seImm | sneImm | seReg | sneReg | sknp => exact ⟨_, rfl, h.inv_skipIf _⟩
  | skp => exact ⟨_, rfl, (h.inv_skipIf _).congr⟩
  | drw x y n => exact h.inv_execDrw x y n
  | ldB x => exact h.inv_execLdB x
  | ldMemVx x => exact h.inv_saveRegs _ x
  | ldVxMem x => exact h.inv_restoreRegs _ x
  | ldVxK x => exact ⟨_, rfl, h.inv.startWait h.running x⟩
  | sys | cls | ldImm | addImm | ldReg | orReg | andReg | xorReg | addReg | subReg | shr | subn | shl | rnd
  | ldI | addI | ldF | ldVxDT | ldDTVx | ldSTVx => exact ⟨_, rfl, h.inv.congr⟩

/-! ### The host's operations -/

theorem Inv.instrStep {s : State} (h : Inv s) : ∃ t, instrStep s = .next t ∧ Inv t := by
  rcases instrStep_cases s with ⟨-, he⟩ | ⟨-, hw, -, he⟩ | ⟨hh, hw, hp, he⟩
  · exact ⟨s, he, h⟩
  · exact ⟨_, he, h.raise hw _ nofun⟩
  · have hf := h.fetched hh hw hp
    rw [he]
    rcases execWord_cases (s.wordAt s.pc.toNat) { s with pc := s.pc + 2 } with ⟨i, -, hx⟩ | ⟨_, -, hx⟩
    · rw [hx]
      exact hf.inv_exec i
    · exact ⟨_, hx, hf.inv.congr⟩

theorem Inv.keyEvent {s : State} (h : Inv s) (key : Nat) (pressed : Bool) : Inv (keyEvent key pressed s) := by
  unfold Machine.keyEvent
  split
  · rename_i hk
    rcases applyKey_cases s ⟨key, hk⟩ pressed with ⟨-, -, he⟩ | ⟨-, he⟩
    · rw [he]
      exact h.endWait.congr
    · rw [he]
      exact h.congr
  · exact h

theorem Inv.renderConsume {s : State} (h : Inv s) : Inv (renderConsume s) := by
  unfold Machine.renderConsume
  split
  · exact h.congr
  · exact h

theorem Inv.loadProgram {s : State} (h : Inv s) (blob : List Byte) : Inv (loadProgram blob s) := by
  unfold Machine.loadProgram
  split
  · exact h.congr
  · rename_i hlen
    have hfits : Config.progBase + blob.length ≤ 4096 := by
      simp only [Config.memSize, Config.progBase] at hlen ⊢
      omega
    exact ((inv_doReset s).writeBytes hfits).congr

theorem Inv.cycleTimer {s : State} (h : Inv s) (now : Nat) : Inv (s.cycleTimer now) := by
  rcases cycleTimer_cases now s with ⟨-, he⟩ | ⟨-, he⟩
  · rw [he]
    exact h.congr
  · rw [he]
    exact h

theorem Inv.cycleCall {s : State} (h : Inv s) (now : Nat) : ∃ t, cycleCall now s = .next t ∧ Inv t := by
  rcases instrGate_cases now s with ⟨-, -, hg⟩ | ⟨-, hg⟩
  · obtain ⟨t, ht, hinv⟩ := Inv.instrStep (s := { s with tInstr := now }) h.congr
    exact ⟨_, cycleCall_of_next (by rw [hg]; exact ht), hinv.cycleTimer now⟩
  · exact ⟨_, cycleCall_of_next (by rw [hg]; rfl), h.cycleTimer now⟩

/-- Every operation of the host keeps the invariant. -/
theorem Inv.hostStep {s : State} (h : Inv s) (op : HostOp) : ∃ t, hostStep op s = .next t ∧ Inv t := by
  cases op with
  | instrStrobe => exact h.instrStep
  | timerStrobe | increaseRate | decreaseRate => exact ⟨_, rfl, h.congr⟩
  | keyEvent key pressed => exact ⟨_, rfl, h.keyEvent key pressed⟩
  | renderConsume => exact ⟨_, rfl, h.renderConsume⟩
  | reset => exact ⟨_, rfl, inv_doReset s⟩
  | load blob => exact ⟨_, rfl, h.loadProgram blob⟩
  | cycle now => exact h.cycleCall now

/-- A step answers a next state, and that state has the invariant. -/
theorem Inv.step {s : State} (h : Inv s) : ∃ t, step s = .next t ∧ Inv t := by
  rcases step_cases s with ⟨-, he⟩ | ⟨op, rest, -, he⟩
  · rw [he]
    exact h.instrStep
  · rw [he]
    exact Inv.hostStep (s := { s with schedule := rest }) h.congr op

/-- Settles O53: every operation of the host, and under a strobe every instruction, keeps the invariant. -/
theorem invariantKept : Obligations.InvariantKept := by
  intro s t h hst
  obtain ⟨u, hu, hinv⟩ := h.step
  rw [hu] at hst
  cases hst
  exact hinv

end Sys2Proof.Machine
end

section
/-!
An instruction writes no register but its destinations (10_state.md R26, 41_load_arith.md R141, 43_display.md R172).
-/

namespace Sys2Proof.Machine

/-- t has in every register outside rs the value s has there. -/
def KeepsRegsOutside (rs : List Reg) (s t : State) : Prop := ∀ k, k ∉ rs → t.getV k = s.getV k

theorem keepsRegsOutside_of_v_eq {rs : List Reg} {s t : State} (h : t.v = s.v := by rfl) :
    KeepsRegsOutside rs s t :=
  fun k _ => State.getV_congr h k

theorem keepsRegsOutside_setV (s : State) (x : Reg) (b : Byte) : KeepsRegsOutside [x] s (s.setV x b) :=
  fun _ hk => State.getV_setV_other s b (List.ne_of_not_mem_cons hk)

theorem keepsRegsOutside_setResultThenFlag (s : State) (x : Reg) (r f : Byte) :
    KeepsRegsOutside [x, flagReg] s (s.setResultThenFlag x r f) := fun k hk => by
  simp only [List.mem_cons, List.not_mem_nil, or_false, not_or] at hk
  rw [State.getV_setResultThenFlag, if_neg hk.2, if_neg hk.1]

/-- OR, AND and XOR leave VF alone, LOGIC_RESETS_VF being false (00_scope.md R4). -/
theorem keepsRegsOutside_setLogicResult (s : State) (x : Reg) (r : Byte) :
    KeepsRegsOutside [x] s (s.setLogicResult Config.logicResetsVf x r) :=
  keepsRegsOutside_setV s x r

theorem keepsRegsOutside_setRegs (s : State) (x : Reg) {bs : List Byte} (hb : bs.length = x.val + 1) :
    KeepsRegsOutside (destRegs (.ldVxMem x)) s (s.setRegs bs) := fun k hk => by
  have hx : ¬ k.val ≤ x.val := by simpa [destRegs] using hk
  rw [State.getV_setRegs s bs k (by omega), dif_neg (by omega)]

/-- Every instruction keeps the registers outside its destinations. -/
theorem exec_keepsRegsOutside (i : Instr) (s : State) :
    ∃ t, exec i s = .next t ∧ KeepsRegsOutside (destRegs i) s t := by
  cases i with
  | ldImm x | addImm x | ldReg x | ldVxDT x => exact ⟨_, rfl, keepsRegsOutside_setV s x _⟩
  | orReg x | andReg x | xorReg x => exact ⟨_, rfl, keepsRegsOutside_setLogicResult s x _⟩
  | rnd x => exact ⟨_, rfl, keepsRegsOutside_setV s.countDraw x _⟩
  | addReg x | subReg x | shr x | subn x | shl x =>
    exact ⟨_, rfl, keepsRegsOutside_setResultThenFlag s x _ _⟩
  | drw x y n =>
    exact (execDrw_rangeChecked x y n s).exists_next (fun _ => keepsRegsOutside_setV s flagReg _)
      keepsRegsOutside_of_v_eq
  | ldVxMem x =>
    exact (restoreRegs_rangeChecked _ x s).exists_next
      (fun _ => keepsRegsOutside_setRegs s x (length_readBytes s _ _)) keepsRegsOutside_of_v_eq
  | ldB x =>
    exact (execLdB_rangeChecked x s).exists_next (fun _ => keepsRegsOutside_of_v_eq) keepsRegsOutside_of_v_eq
  | ldMemVx x =>
    exact (saveRegs_rangeChecked _ x s).exists_next (fun _ => keepsRegsOutside_of_v_eq) keepsRegsOutside_of_v_eq
  | ret =>
    rcases execRet_cases s with ⟨-, he⟩ | ⟨a, rest, -, he⟩
    · exact ⟨_, he, keepsRegsOutside_of_v_eq⟩
    · exact ⟨_, he, keepsRegsOutside_of_v_eq⟩
  | call nnn =>
    rcases execCall_cases nnn s with ⟨-, he⟩ | ⟨-, he⟩
    · exact ⟨_, he, keepsRegsOutside_of_v_eq⟩
    · exact ⟨_, he, keepsRegsOutside_of_v_eq⟩
  | sys | cls | jp | seImm | sneImm | seReg | sneReg | ldI | jpV0 | skp | sknp | ldVxK | ldDTVx | ldSTVx | addI
  | ldF => exact ⟨_, rfl, keepsRegsOutside_of_v_eq⟩

/-- Settles O56: each instruction writes registers only by setting its destination, and VF where it is its flag. -/
theorem registersOutsideDestinationsKept : Obligations.RegistersOutsideDestinationsKept := by
  intro i s t hst
  obtain ⟨u, hu, hkeeps⟩ := exec_keepsRegsOutside i s
  rw [hu] at hst
  cases hst
  exact hkeeps

end Sys2Proof.Machine
end

section
/-!
A word placed by withFetchWord is executed by the next step (20_memory.md R42, 30_encoding.md R60,
40_fetch_and_control.md R90).
-/

namespace Sys2Proof.Machine

/-! ### A word of the table and its two bytes -/

theorem decodeBytes_cons_cons (hi lo : Byte) :
    decodeBytes [hi, lo] = (decode (wordOfBytes hi lo)).map (fun i => (i, [])) := by
  rw [decodeBytes]
  cases decode (wordOfBytes hi lo) <;> rfl

/-- What decodeTableWord answers for a 16-bit word, decode answers for the word itself. -/
theorem decode_of_decodeTableWord {w : Nat} {i : Instr} (h : decodeTableWord 16 w = some i) :
    decode (BitVec.ofNat 16 (w % 2 ^ 16)) = .ok i := by
  rw [decodeTableWord, if_pos (Nat.le_refl 16), tableWordBytes, decodeBytes_cons_cons, wordOfBytes_high_low] at h
  cases hd : decode (BitVec.ofNat 16 (w % 2 ^ 16)) with
  | ok j =>
    rw [hd] at h
    exact congrArg _ (Option.some.inj h)
  | error e =>
    rw [hd] at h
    cases h

/-- The two bytes of a word, stored high byte first, read back as the word (20_memory.md R42). -/
theorem State.wordAt_writeBytes {s : State} (h : s.mem.wf) (a : Nat) (w : Word) :
    (s.writeBytes a [highByte w, lowByte w]).wordAt a = w := by
  have hhi : (s.writeBytes a [highByte w, lowByte w]).readByte a = highByte w :=
    State.readByte_writeBytes_inside h (k := 0) (by simp)
  have hlo : (s.writeBytes a [highByte w, lowByte w]).readByte (a + 1) = lowByte w :=
    State.readByte_writeBytes_inside h (k := 1) (by simp)
  rw [State.wordAt, hhi, hlo, wordOfBytes_high_low]

/-! ### A step that runs an instruction -/

/-- A fetchable word under an enabled strobe that decodes to i runs i (40_fetch_and_control.md R90, R92). -/
theorem instrStep_eq_exec {s : State} {i : Instr} (hh : s.halted = false) (hw : s.waiting = false)
    (hp : s.pc.toNat ≤ 4094) (hd : decode (s.wordAt s.pc.toNat) = .ok i) :
    instrStep s = exec i { s with pc := s.pc + 2 } := by
  rcases instrStep_cases s with ⟨hne, -⟩ | ⟨-, -, hgt, -⟩ | ⟨-, -, -, he⟩
  · exact absurd ⟨hh, hw⟩ hne
  · omega
  · rw [he, execWord, hd]

/-- Where an instruction strobe comes next, the step is that strobe, after which `rest` is still to come (log 1). -/
theorem step_eq_instrStep {s : State} {rest : List HostOp}
    (hs : s.schedule = [] ∧ rest = [] ∨ s.schedule = .instrStrobe :: rest) :
    step s = instrStep { s with schedule := rest } := by
  rcases hs with ⟨hnil, rfl⟩ | hcons
  · have hself : { s with schedule := [] } = s := by rw [← hnil]
    rw [hself, step, State.nextOp, hnil]
    rfl
  · rw [step, State.nextOp, hcons]
    rfl

/-! ### The state withFetchWord makes -/

theorem State.withFetchWord_halted (s : State) (nbits w : Nat) : (s.withFetchWord nbits w).halted = false := rfl

theorem State.withFetchWord_waiting (s : State) (nbits w : Nat) : (s.withFetchWord nbits w).waiting = false := rfl

/-- A word can be fetched at pc. -/
theorem State.withFetchWord_pc_le (s : State) (nbits w : Nat) : (s.withFetchWord nbits w).pc.toNat ≤ 4094 := by
  have hpc : (s.withFetchWord nbits w).pc =
      if s.pc.toNat > Config.memSize - 2 then Config.pcReset else s.pc := rfl
  rw [hpc]
  split
  · decide
  · simp only [Config.memSize] at *
    omega

/-- An instruction strobe comes next, and the schedule of s after it. -/
theorem State.withFetchWord_schedule (s : State) (nbits w : Nat) :
    (s.withFetchWord nbits w).schedule = [] ∧ s.schedule = [] ∨
      (s.withFetchWord nbits w).schedule = .instrStrobe :: s.schedule := by
  have hs : (s.withFetchWord nbits w).schedule =
      if s.schedule.isEmpty then [] else .instrStrobe :: s.schedule := rfl
  rw [hs]
  cases s.schedule with
  | nil => exact .inl ⟨rfl, rfl⟩
  | cons op rest => exact .inr rfl

theorem State.withFetchWord_wordAt {s : State} (h : s.mem.wf) (nbits w : Nat) :
    (s.withFetchWord nbits w).wordAt (s.withFetchWord nbits w).pc.toNat = BitVec.ofNat 16 (w % 2 ^ nbits) := by
  rw [State.withFetchWord, State.placeWord]
  exact State.wordAt_writeBytes h _ _

/-- Settles O52: the placed word is read back at pc, and the strobe that comes next runs what it decodes to. -/
theorem placedWordRunsNext : Obligations.PlacedWordRunsNext := by
  intro s w i hmem hdec
  have hword : decode ((s.withFetchWord 16 w).wordAt (s.withFetchWord 16 w).pc.toNat) = .ok i := by
    rw [State.withFetchWord_wordAt hmem]
    exact decode_of_decodeTableWord hdec
  rw [step_eq_instrStep (s.withFetchWord_schedule 16 w)]
  exact instrStep_eq_exec (s.withFetchWord_halted 16 w) (s.withFetchWord_waiting 16 w)
    (s.withFetchWord_pc_le 16 w) hword

end Sys2Proof.Machine
end

section
/-!
Which instruction may write what: the frame of each state operation, then of each instruction (20_memory.md R56,
10_state.md R14, R27, 40_fetch_and_control.md R93).
-/

namespace Sys2Proof.Machine

/-! ### Frames -/

section
variable {m : May}

theorem Frame.refl (m : May) (s : State) : Frame m s s where
  regs _ _ := rfl
  bytes _ _ := rfl
  keys _ _ := rfl
  pc _ := rfl
  i _ := rfl
  stack _ := rfl
  disp _ _ := rfl
  changed _ := rfl
  latch _ := ⟨rfl, rfl⟩
  dt _ := rfl
  st _ := rfl
  fault _ := ⟨rfl, rfl, rfl, rfl⟩
  gate _ := ⟨rfl, rfl, rfl⟩
  draws _ := rfl
  schedule _ := rfl
  outputs _ := rfl

theorem Frame.trans {s t u : State} (h : Frame m s t) (h' : Frame m t u) : Frame m s u where
  regs k hk := (h'.regs k hk).trans (h.regs k hk)
  bytes a ha := (h'.bytes a ha).trans (h.bytes a ha)
  keys k hk := (h'.keys k hk).trans (h.keys k hk)
  pc hm := (h'.pc hm).trans (h.pc hm)
  i hm := (h'.i hm).trans (h.i hm)
  stack hm := (h'.stack hm).trans (h.stack hm)
  disp hm p := (h'.disp hm p).trans (h.disp hm p)
  changed hm := (h'.changed hm).trans (h.changed hm)
  latch hm := by simp [h'.latch hm, h.latch hm]
  dt hm := (h'.dt hm).trans (h.dt hm)
  st hm := (h'.st hm).trans (h.st hm)
  fault hm := by simp [h'.fault hm, h.fault hm]
  gate hm := by simp [h'.gate hm, h.gate hm]
  draws hm := (h'.draws hm).trans (h.draws hm)
  schedule hm := (h'.schedule hm).trans (h.schedule hm)
  outputs hm := (h'.outputs hm).trans (h.outputs hm)

/-! ### The frame of each state operation: it may be done wherever m allows what it writes -/

theorem frame_setV (s : State) {x : Reg} (b : Byte) (hx : x ∈ m.regs) : Frame m s (s.setV x b) :=
  { Frame.refl m s with regs := fun _ hk => State.getV_setV_other s b (ne_of_mem_of_not_mem hx hk).symm }

theorem frame_setResultThenFlag (s : State) {x : Reg} (r f : Byte) (hx : x ∈ m.regs) (hf : flagReg ∈ m.regs) :
    Frame m s (s.setResultThenFlag x r f) :=
  (frame_setV s r hx).trans (frame_setV _ f hf)

theorem frame_setRegs (s : State) (x : Reg) {bs : List Byte} (hb : bs.length = x.val + 1)
    (hx : destRegs (.ldVxMem x) ⊆ m.regs) : Frame m s (s.setRegs bs) :=
  { Frame.refl m s with regs := fun k hk => keepsRegsOutside_setRegs s x hb k (fun h => hk (hx h)) }

theorem frame_writeBytes (s : State) (base : Nat) (bs : List Byte)
    (hb : ∀ k < bs.length, base + k ∈ m.bytes) : Frame m s (s.writeBytes base bs) := by
  refine { Frame.refl m s with bytes := fun a ha => State.readByte_writeBytes_other s ?_ }
  by_contra h
  exact ha (by simpa [show base + (a - base) = a by omega] using hb (a - base) (by omega))

theorem frame_setKey (s : State) {k : Fin 16} (b : Bool) (hk : k ∈ m.keys) : Frame m s (s.setKey k b) :=
  { Frame.refl m s with
    keys := fun j hj => by rw [State.key_setKey, if_neg (ne_of_mem_of_not_mem hk hj).symm] }

theorem frame_jump (s : State) (a : Word) (hpc : m.pc = true) : Frame m s (s.jump a) :=
  { Frame.refl m s with pc := by simp [hpc] }

theorem frame_skipIf (s : State) (c : Bool) (hpc : m.pc = true) : Frame m s (s.skipIf c) :=
  { Frame.refl m s with pc := by simp [hpc] }

theorem frame_setI (s : State) (a : Word) (hi : m.i = true) : Frame m s (s.setI a) :=
  { Frame.refl m s with i := by simp [hi] }

theorem frame_withStack (s : State) (stack : List Word) (hs : m.stack = true) :
    Frame m s { s with stack := stack } :=
  { Frame.refl m s with stack := by simp [hs] }

theorem frame_draw (s : State) (vx vy : Byte) (rows : List Byte) (hf : flagReg ∈ m.regs) (hd : m.disp = true)
    (hc : m.changed = true) : Frame m s (s.draw vx vy rows) :=
  { Frame.refl m s with
    regs := fun _ hk => State.getV_setV_other _ _ (ne_of_mem_of_not_mem hf hk).symm
    disp := by simp [hd]
    changed := by simp [hc] }

theorem frame_countDraw (s : State) (hd : m.draws = true) : Frame m s s.countDraw :=
  { Frame.refl m s with draws := by simp [hd] }

theorem frame_emit (s : State) (o : Output) (ho : m.outputs = true) : Frame m s (s.emit o) :=
  { Frame.refl m s with outputs := by simp [ho] }

theorem frame_raise (s : State) (a : Word) (trap : Trap) (hf : m.fault = true) (ho : m.outputs = true) :
    Frame m s (raise a trap s) :=
  { Frame.refl m s with fault := by simp [hf], outputs := by simp [ho] }

end

/-! ### The frame of each instruction -/

/-- What an instruction executed in s may write; the last row is the instructions that write registers only. -/
def mayWrite (s : State) : Instr → May
  | .sys _ => { outputs := true }
  | .cls => { disp := true, changed := true }
  | .ret | .call _ => { pc := true, stack := true, fault := true, outputs := true }
  | .jp _ | .jpV0 _ | .seImm _ _ | .sneImm _ _ | .seReg _ _ | .sneReg _ _ | .sknp _ => { pc := true }
  | .skp x => { pc := true, keys := [keyIndex (s.getV x)] }
  | .ldI _ | .addI _ | .ldF _ => { i := true }
  | .rnd x _ => { regs := [x], draws := true }
  | .drw _ _ _ => { regs := [flagReg], disp := true, changed := true, fault := true, outputs := true }
  | .ldVxK _ => { latch := true }
  | .ldDTVx _ => { dt := true }
  | .ldSTVx _ => { st := true }
  | .ldB _ => { bytes := (List.range 3).map (s.i.toNat + ·), fault := true, outputs := true }
  | .ldMemVx x => { bytes := (List.range (x.val + 1)).map (s.i.toNat + ·), fault := true, outputs := true }
  | .ldVxMem x => { regs := destRegs (.ldVxMem x), fault := true, outputs := true }
  | i => { regs := destRegs i }

/-- Every instruction writes at most what it may (40_fetch_and_control.md R93). -/
theorem exec_frame (i : Instr) (s : State) : ∃ t, exec i s = .next t ∧ Frame (mayWrite s i) s t := by
  cases i with
  | sys nnn => exact ⟨_, rfl, frame_emit s _ rfl⟩
  | cls => exact ⟨_, rfl, { Frame.refl _ s with disp := nofun, changed := nofun }⟩
  | ret =>
    rcases execRet_cases s with ⟨-, he⟩ | ⟨a, rest, -, he⟩
    · exact ⟨_, he, frame_raise s _ _ rfl rfl⟩
    · exact ⟨_, he, (frame_withStack s rest rfl).trans (frame_jump _ a rfl)⟩
  | call nnn =>
    rcases execCall_cases nnn s with ⟨-, he⟩ | ⟨-, he⟩
    · exact ⟨_, he, (frame_withStack s (s.pc :: s.stack) rfl).trans (frame_jump _ _ rfl)⟩
    · exact ⟨_, he, frame_raise s _ _ rfl rfl⟩
  | jp | jpV0 => exact ⟨_, rfl, frame_jump s _ rfl⟩
  | seImm | sneImm | seReg | sneReg | sknp => exact ⟨_, rfl, frame_skipIf s _ rfl⟩
  | skp x => exact ⟨_, rfl, (frame_skipIf s _ rfl).trans (frame_setKey _ false (List.mem_singleton_self _))⟩
  | ldImm x | addImm x | ldReg x | ldVxDT x | orReg x | andReg x | xorReg x =>
    exact ⟨_, rfl, frame_setV s _ (List.mem_singleton_self x)⟩
  | rnd x => exact ⟨_, rfl, (frame_countDraw s rfl).trans (frame_setV _ _ (List.mem_singleton_self x))⟩
  | addReg x | subReg x | shr x | subn x | shl x =>
    exact ⟨_, rfl, frame_setResultThenFlag s _ _ (List.mem_pair.2 (.inl rfl)) (List.mem_pair.2 (.inr rfl))⟩
  | ldI | addI | ldF => exact ⟨_, rfl, frame_setI s _ rfl⟩
  | ldVxK => exact ⟨_, rfl, { Frame.refl _ s with latch := nofun }⟩
  | ldDTVx => exact ⟨_, rfl, { Frame.refl _ s with dt := nofun }⟩
  | ldSTVx => exact ⟨_, rfl, { Frame.refl _ s with st := nofun }⟩
  | drw x y n =>
    exact (execDrw_rangeChecked x y n s).exists_next
      (fun _ => frame_draw s _ _ _ (List.mem_singleton_self _) rfl rfl) (frame_raise s _ _ rfl rfl)
  | ldB x =>
    exact (execLdB_rangeChecked x s).exists_next
      (fun _ => frame_writeBytes s _ _ fun _ hk => List.mem_map_of_mem (List.mem_range.2 hk))
      (frame_raise s _ _ rfl rfl)
  | ldMemVx x =>
    exact (saveRegs_rangeChecked _ x s).exists_next
      (fun _ => frame_writeBytes s _ (s.regsUpTo x) fun _ hk =>
        List.mem_map_of_mem (List.mem_range.2 (length_regsUpTo s x ▸ hk)))
      (frame_raise s _ _ rfl rfl)
  | ldVxMem x =>
    exact (restoreRegs_rangeChecked _ x s).exists_next
      (fun _ => frame_setRegs s x (length_readBytes s _ _) (List.Subset.refl _)) (frame_raise s _ _ rfl rfl)

/-! ### What no other instruction may write -/

section
variable {s : State} {i : Instr}

theorem mayWrite_bytes (h : ∀ x, i ≠ .ldB x ∧ i ≠ .ldMemVx x) : (mayWrite s i).bytes = [] := by
  cases i with
  | ldB x => exact absurd rfl (h x).1
  | ldMemVx x => exact absurd rfl (h x).2
  | _ => rfl

theorem mayWrite_display (h : i ≠ .cls ∧ ∀ x y n, i ≠ .drw x y n) :
    (mayWrite s i).disp = false ∧ (mayWrite s i).changed = false := by
  cases i with
  | cls => exact absurd rfl h.1
  | drw x y n => exact absurd rfl (h.2 x y n)
  | _ => exact ⟨rfl, rfl⟩

theorem mayWrite_keys (h : ∀ x, i ≠ .skp x) : (mayWrite s i).keys = [] := by
  cases i with
  | skp x => exact absurd rfl (h x)
  | _ => rfl

theorem mayWrite_stack (h : i ≠ .ret ∧ ∀ nnn, i ≠ .call nnn) : (mayWrite s i).stack = false := by
  cases i with
  | ret => exact absurd rfl h.1
  | call nnn => exact absurd rfl (h.2 nnn)
  | _ => rfl

theorem mayWrite_dt (h : ∀ x, i ≠ .ldDTVx x) : (mayWrite s i).dt = false := by
  cases i with
  | ldDTVx x => exact absurd rfl (h x)
  | _ => rfl

theorem mayWrite_st (h : ∀ x, i ≠ .ldSTVx x) : (mayWrite s i).st = false := by
  cases i with
  | ldSTVx x => exact absurd rfl (h x)
  | _ => rfl

theorem mayWrite_i (h : ∀ x nnn, i ≠ .ldI nnn ∧ i ≠ .addI x ∧ i ≠ .ldF x) : (mayWrite s i).i = false := by
  cases i with
  | ldI | addI | ldF => simp at h
  | _ => rfl

theorem mayWrite_latch (h : ∀ x, i ≠ .ldVxK x) : (mayWrite s i).latch = false := by
  cases i with
  | ldVxK x => exact absurd rfl (h x)
  | _ => rfl

theorem mayWrite_pc (h : i ≠ .ret ∧ ∀ nnn x y nn, i ≠ .jp nnn ∧ i ≠ .call nnn ∧ i ≠ .jpV0 nnn ∧ i ≠ .seImm x nn ∧
    i ≠ .sneImm x nn ∧ i ≠ .seReg x y ∧ i ≠ .sneReg x y ∧ i ≠ .skp x ∧ i ≠ .sknp x) :
    (mayWrite s i).pc = false := by
  cases i with
  | ret | jp | call | jpV0 | seImm | sneImm | seReg | sneReg | skp | sknp => simp at h
  | _ => rfl

theorem mayWrite_fault (h : i ≠ .ret ∧ ∀ nnn x y n, i ≠ .call nnn ∧ i ≠ .drw x y n ∧ i ≠ .ldB x ∧ i ≠ .ldMemVx x ∧
    i ≠ .ldVxMem x) : (mayWrite s i).fault = false := by
  cases i with
  | ret | call | drw | ldB | ldMemVx | ldVxMem => simp at h
  | _ => rfl

theorem mayWrite_gate : (mayWrite s i).gate = false := by
  cases i <;> rfl

end

/-- Settles O55: each clause is a field of the instruction's frame, closed where the clause excludes the
instructions that may write it. -/
theorem whoMayWriteWhat : Obligations.WhoMayWriteWhat := by
  intro i s t hst
  obtain ⟨u, hu, hf⟩ := exec_frame i s
  rw [hu] at hst
  cases hst
  exact ⟨fun h a => hf.bytes a (mayWrite_bytes h ▸ List.not_mem_nil),
    fun h => ⟨hf.disp (mayWrite_display h).1, hf.changed (mayWrite_display h).2⟩,
    fun h k => hf.keys k (mayWrite_keys h ▸ List.not_mem_nil),
    fun h => hf.stack (mayWrite_stack h),
    fun h => hf.dt (mayWrite_dt h),
    fun h => hf.st (mayWrite_st h),
    fun h => hf.i (mayWrite_i h),
    fun h => hf.latch (mayWrite_latch h),
    fun h => hf.pc (mayWrite_pc h),
    fun h => hf.fault (mayWrite_fault h),
    hf.gate mayWrite_gate⟩

end Sys2Proof.Machine
end

section
/-!
The decoder and the encoder agree, and what the decoder answers on every word (30_encoding.md R61 to R67, R74, R75).
-/

namespace Sys2Proof

/-! ### The groups with more than one row (R65) -/

section
variable {w : Word}

theorem decode_group0 (h : (opField w).val = 0x0) : decode w = decodeGroup0 w := by
  simp only [decode, h]

theorem decode_group8 (h : (opField w).val = 0x8) : decode w = decodeGroup8 w := by
  simp only [decode, h]

theorem decode_groupE (h : (opField w).val = 0xE) : decode w = decodeGroupE w := by
  simp only [decode, h]

theorem decode_groupF (h : (opField w).val = 0xF) : decode w = decodeGroupF w := by
  simp only [decode, h]

end

/-! ### What is encoded is decoded -/

theorem sysFieldOk_iff (nnn : Addr) :
    sysFieldOk nnn = true ↔ (nnn.extractLsb' 0 8).toNat ≠ 0xE0 ∧ (nnn.extractLsb' 0 8).toNat ≠ 0xEE := by
  simp [sysFieldOk, ← BitVec.toNat_inj]

/-- A low byte that selects neither CLS nor RET selects SYS (R65, R66). -/
theorem decodeGroup0_wordA {nnn : Addr} (h : sysFieldOk nnn = true) :
    decodeGroup0 (wordA 0x0 nnn) = .ok (.sys nnn) := by
  obtain ⟨hcls, hret⟩ := (sysFieldOk_iff nnn).1 h
  rw [decodeGroup0, nnField_wordA, nnnField_wordA]
  split
  · exact absurd ‹_› hcls
  · exact absurd ‹_› hret
  · rfl

/-- Every field of the canonical word comes back, group by group and format by format (R61, R67). -/
theorem decode_encode {i : Instr} (h : i.WellFormed) : decode (encode i) = .ok i := by
  cases i with
  | cls | ret => rfl
  | sys nnn => rw [encode, decode_group0 (opField_wordA 0 nnn), decodeGroup0_wordA h]
  | jp | call | ldI | jpV0 => simp [encode, decode, opField_wordA, nnnField_wordA]
  | seImm | sneImm | ldImm | addImm | rnd =>
    simp [encode, decode, opField_wordXB, xField_wordXB, nnField_wordXB]
  | seReg | sneReg | drw =>
    simp [encode, decode, opField_wordXY, xField_wordXY, yField_wordXY, nField_wordXY]
  | ldReg x y | orReg x y | andReg x y | xorReg x y | addReg x y | subReg x y | shr x y | subn x y | shl x y =>
    rw [encode, decode_group8 (opField_wordXY 8 x y _)]
    simp [decodeGroup8, xField_wordXY, yField_wordXY, nField_wordXY]
  | skp x | sknp x =>
    rw [encode, decode_groupE (opField_wordXB 0xE x _)]
    simp [decodeGroupE, xField_wordXB, nnField_wordXB]
  | ldVxDT x | ldVxK x | ldDTVx x | ldSTVx x | addI x | ldF x | ldB x | ldMemVx x | ldVxMem x =>
    rw [encode, decode_groupF (opField_wordXB 0xF x _)]
    simp [decodeGroupF, xField_wordXB, nnField_wordXB]

/-- A word's two bytes in memory, followed by anything, decode as the word does (R42, R60). -/
theorem decodeBytes_high_low {w : Word} {i : Instr} (h : decode w = .ok i) (rest : List Byte) :
    decodeBytes (highByte w :: lowByte w :: rest) = .ok (i, rest) := by
  rw [decodeBytes, wordOfBytes_high_low, h]

/-- Settles O1: the word by its fields, the bytes by the word they make. -/
theorem decodeEncodeRoundTrip : Obligations.DecodeEncodeRoundTrip := by
  intro i hwf
  have hdec := decode_encode hwf
  exact ⟨hdec, decodeBytes_high_low hdec⟩

/-- Settles O5: each word is the canonical word of its instruction. -/
theorem sampleWordsDecode : Obligations.SampleWordsDecode :=
  ⟨decode_encode (i := .cls) rfl, decode_encode (i := .ldImm 0 5) rfl, decode_encode (i := .ldImm 1 5) rfl,
    decode_encode (i := .addReg 0 1) rfl, decode_encode (i := .call 0xABC) rfl,
    decode_encode (i := .ldI 0x20A) rfl, decode_encode (i := .drw 3 4 5) rfl, decode_encode (i := .skp 2) rfl,
    decode_encode (i := .ldSTVx 1) rfl⟩

/-! ### What fixes a row's bits: the converses of the laws on the masks (R66) -/

section
variable {w p : Word} {op sub n : Nat}

theorem matches_groupRow (hop : (opField w).val = op) (hp : p.toNat = op * 4096 := by rfl) :
    OpcodeRow.Matches ⟨p, 0xF000⟩ w :=
  BitVec.eq_of_toNat_eq ((and_groupMask w).trans (by rw [← val_opField, hop]; exact hp.symm))

theorem matches_byteRow (hop : (opField w).val = op) (hb : (nnField w).toNat = sub)
    (hp : p.toNat = op * 4096 + sub := by rfl) : OpcodeRow.Matches ⟨p, 0xF0FF⟩ w :=
  BitVec.eq_of_toNat_eq ((and_byteMask w).trans (by rw [← val_opField, ← toNat_nnField, hop, hb]; exact hp.symm))

theorem matches_nibbleRow (hop : (opField w).val = op) (hn : (nField w).val = n)
    (hp : p.toNat = op * 4096 + n := by rfl) : OpcodeRow.Matches ⟨p, 0xF00F⟩ w :=
  BitVec.eq_of_toNat_eq ((and_nibbleMask w).trans (by rw [← val_opField, ← val_nField, hop, hn]; exact hp.symm))

end

/-! ### What decode answers on every word -/

/-- The words of SYS: the unknown words of group 0 (R74). -/
def SysWord (w : Word) : Prop :=
  w.toNat / 4096 = 0 ∧ w.toNat % 256 ≠ 0xE0 ∧ w.toNat % 256 ≠ 0xEE

/-- The unknown words of groups 8, E and F (R74). -/
def UnknownWord (w : Word) : Prop :=
  (w.toNat / 4096 = 8 ∧ w.toNat % 16 ∈ [8, 9, 0xA, 0xB, 0xC, 0xD, 0xF]) ∨
  (w.toNat / 4096 = 0xE ∧ w.toNat % 256 ≠ 0x9E ∧ w.toNat % 256 ≠ 0xA1) ∨
  (w.toNat / 4096 = 0xF ∧ w.toNat % 256 ∉ [0x07, 0x0A, 0x15, 0x18, 0x1E, 0x29, 0x33, 0x55, 0x65])

section
variable {w : Word}

theorem sysWord_iff :
    SysWord w ↔ (opField w).val = 0 ∧ (nnField w).toNat ≠ 0xE0 ∧ (nnField w).toNat ≠ 0xEE := by
  rw [val_opField, toNat_nnField, SysWord]

theorem unknownWord_iff :
    UnknownWord w ↔
      ((opField w).val = 8 ∧ (nField w).val ∈ [8, 9, 0xA, 0xB, 0xC, 0xD, 0xF]) ∨
      ((opField w).val = 0xE ∧ (nnField w).toNat ≠ 0x9E ∧ (nnField w).toNat ≠ 0xA1) ∨
      ((opField w).val = 0xF ∧
        (nnField w).toNat ∉ [0x07, 0x0A, 0x15, 0x18, 0x1E, 0x29, 0x33, 0x55, 0x65]) := by
  rw [val_opField, val_nField, toNat_nnField, UnknownWord]

theorem lowByte_nnnField (w : Word) : (nnnField w).extractLsb' 0 8 = nnField w := by
  apply BitVec.eq_of_toNat_eq
  simp [toNat_nnnField, toNat_nnField]

theorem SysWord.sysFieldOk (h : SysWord w) : sysFieldOk (nnnField w) = true := by
  rw [sysFieldOk_iff, lowByte_nnnField]
  exact (sysWord_iff.1 h).2

end

/-- What may be answered for w: SYS for its words and an error for the unknown ones, and for every other word a
well-formed instruction whose row has its fixed bits in w. -/
inductive Answers (w : Word) : Except DecodeError Instr → Prop where
  | sys (hsys : SysWord w) (hunk : ¬ UnknownWord w) : Answers w (.ok (.sys (nnnField w)))
  | unknown (hsys : ¬ SysWord w) (hunk : UnknownWord w) : Answers w (.error (.unknownOpcode w))
  | defined {i : Instr} (hsys : ¬ SysWord w) (hunk : ¬ UnknownWord w) (hwf : i.WellFormed)
      (hrow : i.row.Matches w) (hne : ∀ nnn, i ≠ .sys nnn) : Answers w (.ok i)

section
variable {w : Word}

theorem decodeGroup0_answers (hop : (opField w).val = 0x0) : Answers w (decodeGroup0 w) := by
  have hunk : ¬ UnknownWord w := by simp [unknownWord_iff, hop]
  rw [decodeGroup0]
  split
  case h_3 hcls hret => exact .sys (sysWord_iff.2 ⟨hop, hcls, hret⟩) hunk
  all_goals
    next hb => exact .defined (by simp [sysWord_iff, hb]) hunk rfl (matches_byteRow hop hb) nofun

theorem decodeGroup8_answers (hop : (opField w).val = 0x8) : Answers w (decodeGroup8 w) := by
  have hsys : ¬ SysWord w := by simp [sysWord_iff, hop]
  have hlt := (nField w).isLt
  rw [decodeGroup8]
  split
  case h_10 => exact .unknown hsys (by simp [unknownWord_iff, hop] at *; omega)
  all_goals
    next hn => exact .defined hsys (by simp [unknownWord_iff, hop, hn]) rfl (matches_nibbleRow hop hn) nofun

theorem decodeGroupE_answers (hop : (opField w).val = 0xE) : Answers w (decodeGroupE w) := by
  have hsys : ¬ SysWord w := by simp [sysWord_iff, hop]
  rw [decodeGroupE]
  split
  case h_3 hskp hsknp => exact .unknown hsys (unknownWord_iff.2 (.inr (.inl ⟨hop, hskp, hsknp⟩)))
  all_goals
    next hb => exact .defined hsys (by simp [unknownWord_iff, hop, hb]) rfl (matches_byteRow hop hb) nofun

theorem decodeGroupF_answers (hop : (opField w).val = 0xF) : Answers w (decodeGroupF w) := by
  have hsys : ¬ SysWord w := by simp [sysWord_iff, hop]
  rw [decodeGroupF]
  split
  case h_10 => exact .unknown hsys (by simp_all [unknownWord_iff])
  all_goals
    next hb => exact .defined hsys (by simp [unknownWord_iff, hop, hb]) rfl (matches_byteRow hop hb) nofun

/-- What decode can answer, group by group; a group other than 0, 8, E and F is one row (R64). -/
theorem decode_answers (w : Word) : Answers w (decode w) := by
  have hlt := (opField w).isLt
  rw [decode]
  split
  case h_1 hop => exact decodeGroup0_answers hop
  case h_9 hop => exact decodeGroup8_answers hop
  case h_15 hop => exact decodeGroupE_answers hop
  case h_16 => exact decodeGroupF_answers (by simp only [imp_false] at *; omega)
  all_goals
    next hop =>
      exact .defined (by simp [sysWord_iff, hop]) (by simp [unknownWord_iff, hop]) rfl (matches_groupRow hop) nofun

end

/-- Settles O2: SYS by its word's fields, and every other answer by its row. -/
theorem decodeAgreesWithOpcodeMap : Obligations.DecodeAgreesWithOpcodeMap := by
  intro w i hdec
  have hans := decode_answers w
  rw [hdec] at hans
  cases hans with
  | sys hsys => exact ⟨hsys.sysFieldOk, matches_groupRow (sysWord_iff.1 hsys).1⟩
  | defined _ _ hwf hrow => exact ⟨hwf, hrow⟩

/-- Settles O3: the three kinds of answer exclude each other. -/
theorem unknownWordsAreExactlyThoseListed : Obligations.UnknownWordsAreExactlyThoseListed := by
  intro w
  change ((∃ nnn, decode w = .ok (.sys nnn)) ↔ SysWord w) ∧ ((∃ e, decode w = .error e) ↔ UnknownWord w) ∧
    ∀ e, decode w = .error e → e = .unknownOpcode w
  have hans := decode_answers w
  generalize decode w = r at hans ⊢
  cases hans with
  | sys hsys hunk => simp [hsys, hunk]
  | unknown hsys hunk => simp [hsys, hunk]
  | defined hsys hunk _ _ hne => simp [hsys, hunk, hne]

/-! ### Bits that are ignored (R75) -/

section
variable {w u : Word}

theorem decode_group5 (h : (opField w).val = 0x5) : decode w = .ok (.seReg (xField w) (yField w)) := by
  simp only [decode, h]

theorem decode_group9 (h : (opField w).val = 0x9) : decode w = .ok (.sneReg (xField w) (yField w)) := by
  simp only [decode, h]

/-- Words that differ only in the low nibble have the same group and the same registers. -/
theorem fields_congr_of_div_16 (h : w.toNat / 16 = u.toNat / 16) :
    opField w = opField u ∧ xField w = xField u ∧ yField w = yField u := by
  simp only [Fin.ext_iff, val_opField, val_xField, val_yField]
  omega

/-- Group 0 reads SYS's field only where neither CLS nor RET is selected (R65). -/
theorem decodeGroup0_congr (hb : nnField w = nnField u)
    (hsel : (nnField w).toNat = 0xE0 ∨ (nnField w).toNat = 0xEE) : decodeGroup0 w = decodeGroup0 u := by
  rw [decodeGroup0, decodeGroup0, ← hb]
  rcases hsel with h | h <;> simp only [h]

end

/-- Settles O4: groups 5 and 9 by the fields they read, CLS and RET by the low byte that selects them. -/
theorem dontCareBitsIgnored : Obligations.DontCareBitsIgnored := by
  intro w u
  refine ⟨fun hdiv hgroup => ?_, fun hw hu hb hsel => ?_⟩
  · obtain ⟨hop, hx, hy⟩ := fields_congr_of_div_16 hdiv
    rcases hgroup with h | h
    · rw [← val_opField] at h
      rw [decode_group5 h, decode_group5 (hop ▸ h), hx, hy]
    · rw [← val_opField] at h
      rw [decode_group9 h, decode_group9 (hop ▸ h), hx, hy]
  · rw [← val_opField] at hw hu
    rw [← toNat_nnField, ← toNat_nnField, BitVec.toNat_inj] at hb
    rw [← toNat_nnField] at hsel
    rw [decode_group0 hw, decode_group0 hu, decodeGroup0_congr hb hsel]

end Sys2Proof
end

section
/-!
The instruction step (40_fetch_and_control.md R90 to R94): what a strobe answers when the step is not enabled, at the
fetch, over a defined word and over an unknown one; and that every operation of the host answers a next state.
-/

namespace Sys2Proof.Machine

/-! ### Every operation answers a next state -/

theorem exec_next (i : Instr) (s : State) : ∃ t, exec i s = .next t :=
  (exec_frame i s).imp fun _ => And.left

theorem execWord_next (w : Word) (s : State) : ∃ t, execWord w s = .next t := by
  rcases execWord_cases w s with ⟨i, -, he⟩ | ⟨_, -, he⟩
  · rw [he]
    exact exec_next i s
  · exact ⟨_, he⟩

theorem instrStep_next (s : State) : ∃ t, instrStep s = .next t := by
  rcases instrStep_cases s with ⟨-, he⟩ | ⟨-, -, -, he⟩ | ⟨-, -, -, he⟩
  · exact ⟨s, he⟩
  · exact ⟨_, he⟩
  · rw [he]
    exact execWord_next _ _

theorem cycleCall_next (now : Nat) (s : State) : ∃ t, cycleCall now s = .next t := by
  rcases instrGate_cases now s with ⟨-, -, hg⟩ | ⟨-, hg⟩
  · obtain ⟨t, ht⟩ := instrStep_next { s with tInstr := now }
    exact ⟨_, cycleCall_of_next (by rw [hg]; exact ht)⟩
  · exact ⟨_, cycleCall_of_next (by rw [hg]; rfl)⟩

theorem hostStep_next (op : HostOp) (s : State) : ∃ t, hostStep op s = .next t := by
  cases op with
  | instrStrobe => exact instrStep_next s
  | cycle now => exact cycleCall_next now s
  | timerStrobe | keyEvent | renderConsume | increaseRate | decreaseRate | reset | load => exact ⟨_, rfl⟩

/-- Settles O10: a step is one operation of the host, and each of them answers a next state. -/
theorem stepAlwaysAnswersNext : Obligations.StepAlwaysAnswersNext :=
  fun s => hostStep_next s.nextOp.1 s.nextOp.2

/-! ### A strobe that executes nothing, and one that executes what it fetched -/

/-- Settles O6: the strobe that comes next fetches the word at pc and runs what it decodes to. -/
theorem stepRunsDecodedInstruction : Obligations.StepRunsDecodedInstruction := by
  intro s i rest hh hw hp hsched hdec
  rw [step_eq_instrStep hsched]
  exact instrStep_eq_exec (s := { s with schedule := rest }) hh hw hp hdec

theorem instrStep_of_not_enabled {s : State} (h : s.halted = true ∨ s.waiting = true) :
    instrStep s = .next s := by
  rw [instrStep, if_neg]
  rw [State.enabled_iff]
  rintro ⟨hh, hw⟩
  simp [hh, hw] at h

theorem instrStep_of_pc_gt {s : State} (hh : s.halted = false) (hw : s.waiting = false)
    (hp : 4094 < s.pc.toNat) :
    instrStep s = .next (raise s.pc ⟨.programCounterOutOfRange, s.pc⟩ s) := by
  rcases instrStep_cases s with ⟨hne, -⟩ | ⟨-, -, -, he⟩ | ⟨-, -, hle, -⟩
  · exact absurd ⟨hh, hw⟩ hne
  · exact he
  · omega

theorem instrStep_eq_execWord {s : State} (hh : s.halted = false) (hw : s.waiting = false)
    (hp : s.pc.toNat ≤ 4094) :
    instrStep s = execWord (s.wordAt s.pc.toNat) { s with pc := s.pc + 2 } := by
  rcases instrStep_cases s with ⟨hne, -⟩ | ⟨-, -, hgt, -⟩ | ⟨-, -, -, he⟩
  · exact absurd ⟨hh, hw⟩ hne
  · omega
  · exact he

/-- Settles O7: a strobe that is not enabled leaves the state as it is. -/
theorem strobeWithoutEnableChangesNothing : Obligations.StrobeWithoutEnableChangesNothing :=
  fun _ => instrStep_of_not_enabled

/-- Settles O8: the fetch enters the fault at pc, with pc as its information. -/
theorem fetchOutOfRangeFaults : Obligations.FetchOutOfRangeFaults :=
  fun s hh hw hp => ⟨_, instrStep_of_pc_gt hh hw hp, faultTaken_raise s.pc ⟨_, s.pc⟩ s, rfl⟩

/-! ### The unknown words -/

theorem exec_sys (nnn : Addr) (s : State) : exec (.sys nnn) s = execUnknown (addrOperand nnn) s := rfl

/-- A word of SYS decodes to SYS with the word's own address field (R66, R95). -/
theorem decode_of_sysWord {w : Word} (h : SysWord w) : decode w = .ok (.sys (nnnField w)) := by
  have hans := decode_answers w
  generalize decode w = r at hans ⊢
  cases hans with
  | sys => rfl
  | unknown hsys | defined hsys => exact absurd h hsys

/-- The operand of a decoded SYS, zero-extended, is the word itself: its group nibble is 0 (R95). -/
theorem addrOperand_of_decode_sys {w : Word} {nnn : Addr} (h : decode w = .ok (.sys nnn)) :
    addrOperand nnn = w := by
  have hans := decode_answers w
  rw [h] at hans
  cases hans with
  | sys hsys =>
    apply BitVec.eq_of_toNat_eq
    have := hsys.1
    rw [toNat_addrOperand, toNat_nnnField]
    omega
  | defined _ _ _ _ hne => exact absurd rfl (hne nnn)

/-- The unknown words, those of SYS among them, have one effect (R94, R95). -/
theorem execWord_eq_execUnknown {w : Word} (h : (∃ e, decode w = .error e) ∨ ∃ nnn, decode w = .ok (.sys nnn))
    (s : State) : execWord w s = execUnknown w s := by
  rcases h with ⟨e, he⟩ | ⟨nnn, hs⟩
  · rw [execWord, he]
  · rw [execWord, hs]
    exact (exec_sys nnn s).trans (by rw [addrOperand_of_decode_sys hs])

/-- Settles O9: the fetch moves pc, and the unknown word emits its diagnostic at the address it was fetched from. -/
theorem unknownWordStep : Obligations.UnknownWordStep := by
  rintro s hh hw hp w rfl hunk
  have hstep := (instrStep_eq_execWord hh hw hp).trans (execWord_eq_execUnknown hunk _)
  refine ⟨_, hstep, rfl, ?_, (frame_jump s (s.pc + 2) rfl).trans (frame_emit _ _ rfl)⟩
  rw [State.emit_outputs, instrAddr_fetched]

end Sys2Proof.Machine
end

section
/-!
An instruction halts a running core only by a fault of its own (40_fetch_and_control.md R93, 60_exceptions.md R211,
R213).
-/

namespace Sys2Proof.Machine

/-- A fault entered at the executing instruction has that instruction's address (R92, R213). -/
theorem faultTaken_raise_instrAddr (s : State) (code : FaultCode) (info : Word) :
    FaultTaken code (s.pc - 2) info s (raise s.instrAddr ⟨code, info⟩ s) :=
  faultTaken_raise s.instrAddr ⟨code, info⟩ s

theorem not_inRange_iff {base : Word} {count : Nat} :
    ¬ InRange base count ↔ 0 < count ∧ 4095 < base.toNat + count - 1 := by
  rw [InRange]
  omega

/-- A range-checked answer that is halted, where the completion is not, is the fault. -/
theorem RangeChecked.faultTaken {s t u : State} {count : Nat} {r : Result} (h : RangeChecked s count r t)
    (hr : r = .next u) (hu : u.halted = true) (ht : t.halted = false) :
    0 < count ∧ 4095 < s.i.toNat + count - 1 ∧
      FaultTaken .memoryOutOfRange (s.pc - 2) (firstBad s.i) s u := by
  rcases h with ⟨-, h⟩ | ⟨hout, h⟩
  · cases hr.symm.trans h
    simp [ht] at hu
  · cases hr.symm.trans h
    obtain ⟨hpos, hbad⟩ := not_inRange_iff.1 hout
    exact ⟨hpos, hbad, faultTaken_raise_instrAddr s _ _⟩

/-- An instruction that may enter no fault leaves HALTED as it is. -/
theorem exec_keeps_halted {i : Instr} {s t : State} (hf : (mayWrite s i).fault = false)
    (h : exec i s = .next t) : t.halted = s.halted := by
  obtain ⟨u, hu, hframe⟩ := exec_frame i s
  cases h.symm.trans hu
  exact (hframe.fault hf).1

theorem faultTaken_of_execRet_halted {s t : State} (hst : execRet s = .next t) (hs : s.halted = false)
    (ht : t.halted = true) : s.stack = [] ∧ FaultTaken .stackUnderflow (s.pc - 2) 0 s t := by
  rcases execRet_cases s with ⟨hempty, he⟩ | ⟨a, rest, -, he⟩
  · cases hst.symm.trans he
    exact ⟨hempty, faultTaken_raise_instrAddr s _ _⟩
  · cases hst.symm.trans he
    simp [hs] at ht

theorem faultTaken_of_execCall_halted {nnn : Addr} {s t : State} (hst : execCall nnn s = .next t)
    (hs : s.halted = false) (ht : t.halted = true) :
    16 ≤ s.stack.length ∧ FaultTaken .stackOverflow (s.pc - 2) s.pc s t := by
  rcases execCall_cases nnn s with ⟨-, he⟩ | ⟨hfull, he⟩
  · cases hst.symm.trans he
    simp [hs] at ht
  · cases hst.symm.trans he
    exact ⟨hfull, faultTaken_raise_instrAddr s _ _⟩

/-- Settles O57: RET and CALL by the call stack, the memory instructions by the range check; no other instruction may
write HALTED. -/
theorem faultsArePrecise : Obligations.FaultsArePrecise := by
  intro i s t hst hs ht
  cases i with
  | ret => exact .inl ⟨rfl, faultTaken_of_execRet_halted hst hs ht⟩
  | call nnn => exact .inr (.inl ⟨nnn, rfl, faultTaken_of_execCall_halted hst hs ht⟩)
  | drw x y n =>
    obtain ⟨hpos, hbad, hfault⟩ := (execDrw_rangeChecked x y n s).faultTaken hst ht hs
    exact .inr (.inr ⟨_, hpos, hbad, hfault, .inl ⟨x, y, n, rfl, rfl⟩⟩)
  | ldB x =>
    obtain ⟨hpos, hbad, hfault⟩ := (execLdB_rangeChecked x s).faultTaken hst ht hs
    exact .inr (.inr ⟨_, hpos, hbad, hfault, .inr (.inl ⟨x, rfl, rfl⟩)⟩)
  | ldMemVx x =>
    obtain ⟨hpos, hbad, hfault⟩ := (saveRegs_rangeChecked _ x s).faultTaken hst ht hs
    exact .inr (.inr ⟨_, hpos, hbad, hfault, .inr (.inr ⟨x, .inl rfl, rfl⟩)⟩)
  | ldVxMem x =>
    obtain ⟨hpos, hbad, hfault⟩ := (restoreRegs_rangeChecked _ x s).faultTaken hst ht hs
    exact .inr (.inr ⟨_, hpos, hbad, hfault, .inr (.inr ⟨x, .inr rfl, rfl⟩)⟩)
  | _ =>
    have hkept := exec_keeps_halted rfl hst
    rw [hs, ht] at hkept
    cases hkept

end Sys2Proof.Machine
end

section
/-!
The control transfers (40_fetch_and_control.md R95 to R103): the encoding of each from its row, and its result from
the one operation on pc or the stack that it performs.
-/

namespace Sys2Proof.Machine

/-! ### From a row of the opcode map to the decoder (30_encoding.md R66) -/

section
variable {p : Word} {op sub : Nat} {f : Word → Instr}

theorem decodesAs_groupRow (h : ∀ w, (opField w).val = op → decode w = .ok (f w))
    (hp : p.toNat = op * 4096 := by rfl) : DecodesAs ⟨p, 0xF000⟩ f :=
  fun w hm => h w (opField_of_groupRow hm hp)

theorem decodesAs_byteRow (h : ∀ w, (opField w).val = op → (nnField w).toNat = sub → decode w = .ok (f w))
    (hp : p.toNat = op * 4096 + sub := by rfl) (hs : sub < 256 := by decide) : DecodesAs ⟨p, 0xF0FF⟩ f :=
  fun w hm => (fields_of_byteRow hm hp hs).elim (h w)

end

section
variable {w : Word}

theorem decode_group1 (h : (opField w).val = 0x1) : decode w = .ok (.jp (nnnField w)) := by
  simp only [decode, h]

theorem decode_group2 (h : (opField w).val = 0x2) : decode w = .ok (.call (nnnField w)) := by
  simp only [decode, h]

theorem decode_group3 (h : (opField w).val = 0x3) : decode w = .ok (.seImm (xField w) (nnField w)) := by
  simp only [decode, h]

theorem decode_group4 (h : (opField w).val = 0x4) : decode w = .ok (.sneImm (xField w) (nnField w)) := by
  simp only [decode, h]

theorem decode_groupB (h : (opField w).val = 0xB) : decode w = .ok (.jpV0 (nnnField w)) := by
  simp only [decode, h]

theorem decode_ret (h : (opField w).val = 0x0) (hb : (nnField w).toNat = 0xEE) : decode w = .ok .ret := by
  rw [decode_group0 h, decodeGroup0]
  simp only [hb]

/-- A word of SYS's row that is neither CLS's nor RET's is a word of SYS (R66). -/
theorem sysWord_of_row (h : OpcodeRow.Matches ⟨0x0000, 0xF000⟩ w) (hcls : nnField w ≠ 0xE0)
    (hret : nnField w ≠ 0xEE) : SysWord w :=
  sysWord_iff.2 ⟨opField_of_groupRow h rfl, BitVec.toNat_ne.1 hcls, BitVec.toNat_ne.1 hret⟩

end

/-! ### SYS, RET, CALL -/

/-- Settles O11: SYS's words, and the one diagnostic that SYS emits. -/
theorem sysIsUnknownOpcode : Obligations.SysIsUnknownOpcode :=
  ⟨fun _ hrow hcls hret => decode_of_sysWord (sysWord_of_row hrow hcls hret),
    fun nnn s => ⟨_, exec_sys nnn s, ⟨addrOperand nnn, rfl, toNat_addrOperand nnn⟩, frame_emit s _ rfl⟩⟩

/-- Settles O12: RET by the two cases of the call stack. -/
theorem retResult : Obligations.RetResult := by
  refine ⟨decodesAs_byteRow fun _ => decode_ret, fun s a rest hs => ?_, fun s hs => ?_⟩
  · rcases execRet_cases s with ⟨hempty, -⟩ | ⟨a', rest', hs', he⟩
    · simp [hs] at hempty
    · obtain ⟨rfl, rfl⟩ := List.cons.inj (hs.symm.trans hs')
      exact ⟨_, he, rfl, rfl, (frame_withStack s rest rfl).trans (frame_jump _ a rfl)⟩
  · rcases execRet_cases s with ⟨-, he⟩ | ⟨a', rest', hs', -⟩
    · exact ⟨_, he, faultTaken_raise_instrAddr s _ _⟩
    · simp [hs] at hs'

/-- Settles O14: CALL by whether the call stack is full. -/
theorem callResult : Obligations.CallResult := by
  refine ⟨decodesAs_groupRow fun _ => decode_group2, fun nnn s hlt => ?_, fun nnn s hfull => ?_⟩
  · rcases execCall_cases nnn s with ⟨-, he⟩ | ⟨hge, -⟩
    · exact ⟨_, he, rfl, toNat_addrOperand nnn,
        (frame_withStack s (s.pc :: s.stack) rfl).trans (frame_jump _ _ rfl)⟩
    · omega
  · rcases execCall_cases nnn s with ⟨hlt, -⟩ | ⟨-, he⟩
    · omega
    · exact ⟨_, he, faultTaken_raise_instrAddr s _ _⟩

/-! ### Jumps -/

/-- Settles O13: JP writes pc with its address. -/
theorem jpResult : Obligations.JpResult :=
  ⟨decodesAs_groupRow fun _ => decode_group1,
    fun nnn s => ⟨_, rfl, toNat_addrOperand nnn, frame_jump s _ rfl⟩⟩

/-- The sum of an address and a byte is exact: 0xFFF + 0xFF does not wrap at 16 bits (R103). -/
theorem toNat_addrOperand_add_wordOperand (nnn : Addr) (b : Byte) :
    (addrOperand nnn + wordOperand b).toNat = nnn.toNat + b.toNat := by
  rw [BitVec.toNat_add, toNat_addrOperand, toNat_wordOperand]
  omega

/-- Settles O17: JP V0 writes pc with the exact sum, which is 0x10FE at most. -/
theorem jpV0Result : Obligations.JpV0Result := by
  refine ⟨decodesAs_groupRow fun _ => decode_groupB, fun nnn s => ?_⟩
  have hsum := toNat_addrOperand_add_wordOperand nnn (s.getV 0)
  refine ⟨_, rfl, hsum, ?_, frame_jump s _ rfl⟩
  rw [State.jump_pc, hsum]
  omega

/-! ### Skips -/

/-- What a skip on c does, where P is the condition to skip on and Q the one to go on with the next instruction
(10_state.md R14). -/
theorem skipIf_result (s : State) {c : Bool} {P Q : Prop} (hskip : P → c = true) (hstay : Q → c = false) :
    Frame { pc := true } s (s.skipIf c) ∧ (P → (s.skipIf c).pc.toNat = (s.pc.toNat + 2) % 65536) ∧
      (Q → (s.skipIf c).pc = s.pc) := by
  refine ⟨frame_skipIf s c rfl, fun h => ?_, fun h => ?_⟩
  · rw [State.skipIf_pc, if_pos (hskip h), BitVec.toNat_add]
    rfl
  · simp [hstay h]

/-- A skip on equality. -/
theorem skipIf_beq_result (s : State) (a b : Byte) :
    Frame { pc := true } s (s.skipIf (a == b)) ∧
      (a = b → (s.skipIf (a == b)).pc.toNat = (s.pc.toNat + 2) % 65536) ∧
      (a ≠ b → (s.skipIf (a == b)).pc = s.pc) :=
  skipIf_result s beq_iff_eq.2 beq_eq_false_iff_ne.2

/-- A skip on difference. -/
theorem skipIf_bne_result (s : State) (a b : Byte) :
    Frame { pc := true } s (s.skipIf (a != b)) ∧
      (a ≠ b → (s.skipIf (a != b)).pc.toNat = (s.pc.toNat + 2) % 65536) ∧
      (a = b → (s.skipIf (a != b)).pc = s.pc) :=
  skipIf_result s bne_iff_ne.2 bne_eq_false_iff_eq.2

/-- Settles O15: SE and SNE with a byte are the two skips. -/
theorem skipOnByteResult : Obligations.SkipOnByteResult :=
  ⟨⟨decodesAs_groupRow fun _ => decode_group3, fun x nn s => ⟨_, rfl, skipIf_beq_result s (s.getV x) nn⟩⟩,
    decodesAs_groupRow fun _ => decode_group4, fun x nn s => ⟨_, rfl, skipIf_bne_result s (s.getV x) nn⟩⟩

/-- Settles O16: SE and SNE with two registers are the two skips. -/
theorem skipOnRegisterResult : Obligations.SkipOnRegisterResult :=
  ⟨⟨decodesAs_groupRow fun _ => decode_group5,
      fun x y s => ⟨_, rfl, skipIf_beq_result s (s.getV x) (s.getV y)⟩⟩,
    decodesAs_groupRow fun _ => decode_group9,
    fun x y s => ⟨_, rfl, skipIf_bne_result s (s.getV x) (s.getV y)⟩⟩

end Sys2Proof.Machine
end

section
/-!
Register load, arithmetic, logic, shift and random (41_load_arith.md R120 to R140): the encoding of each from its row,
and its result from the one register write it performs.
-/

namespace Sys2Proof.Machine

/-! ### The rows of the register instructions (30_encoding.md R66) -/

section
variable {w : Word}

theorem decode_group6 (h : (opField w).val = 0x6) : decode w = .ok (.ldImm (xField w) (nnField w)) := by
  simp only [decode, h]

theorem decode_group7 (h : (opField w).val = 0x7) : decode w = .ok (.addImm (xField w) (nnField w)) := by
  simp only [decode, h]

theorem decode_groupC (h : (opField w).val = 0xC) : decode w = .ok (.rnd (xField w) (nnField w)) := by
  simp only [decode, h]

end

/-- A row of group 8 decodes as the low nibble n selects. -/
theorem decodesAs_group8 {p : Word} {f : Word → Instr} (n : Nat)
    (h : ∀ w, (nField w).val = n → decodeGroup8 w = .ok (f w) := by intro w h; simp only [decodeGroup8, h])
    (hp : p.toNat = 8 * 4096 + n := by rfl) (hn : n < 16 := by decide) : DecodesAs ⟨p, 0xF00F⟩ f := fun w hm => by
  obtain ⟨hop, hnib⟩ := fields_of_nibbleRow hm hp hn
  rw [decode_group8 hop, h w hnib]

/-! ### One register written: loads, ADD with a byte, logic, RND -/

theorem setV_result (s : State) (x : Reg) (b : Byte) :
    (s.setV x b).getV x = b ∧ Frame { regs := [x] } s (s.setV x b) :=
  ⟨State.getV_setV_same s x b, frame_setV s b (List.mem_singleton_self x)⟩

/-- Settles O18: LD writes its byte to its register. -/
theorem ldImmResult : Obligations.LdImmResult :=
  ⟨decodesAs_groupRow fun _ => decode_group6, fun x nn s => ⟨_, rfl, setV_result s x nn⟩⟩

/-- Settles O19: the byte sum is the sum modulo 256, and it is the one register write. -/
theorem addImmResult : Obligations.AddImmResult := by
  refine ⟨decodesAs_groupRow fun _ => decode_group7, fun x nn s => ?_⟩
  obtain ⟨hsum, hframe⟩ := setV_result s x (s.getV x + nn)
  refine ⟨_, rfl, ?_, hframe⟩
  rw [hsum, BitVec.toNat_add]

/-- Settles O20: LD writes the source's byte to its register. -/
theorem ldRegResult : Obligations.LdRegResult :=
  ⟨decodesAs_group8 0x0, fun x y s => ⟨_, rfl, setV_result s x (s.getV y)⟩⟩

/-- A logic result whose bits are f writes those bits, and, LOGIC_RESETS_VF being false, nothing else
(00_scope.md R4). -/
theorem setLogicResult_result (s : State) (x : Reg) {r : Byte} {f : Nat → Bool} (h : ∀ k, r.getLsbD k = f k) :
    Frame { regs := [x] } s (s.setLogicResult Config.logicResetsVf x r) ∧
      ∀ k, ((s.setLogicResult Config.logicResetsVf x r).getV x).getLsbD k = f k := by
  obtain ⟨hval, hframe⟩ := setV_result s x r
  exact ⟨hframe, fun k => (congrArg (BitVec.getLsbD · k) hval).trans (h k)⟩

/-- Settles O21: each of the three from the bits of its result. -/
theorem logicResult : Obligations.LogicResult :=
  ⟨⟨decodesAs_group8 0x1, fun x _ s => ⟨_, rfl, setLogicResult_result s x fun _ => BitVec.getLsbD_or⟩⟩,
    ⟨decodesAs_group8 0x2, fun x _ s => ⟨_, rfl, setLogicResult_result s x fun _ => BitVec.getLsbD_and⟩⟩,
    decodesAs_group8 0x3, fun x _ s => ⟨_, rfl, setLogicResult_result s x fun _ => BitVec.getLsbD_xor⟩⟩

/-- Settles O26: the byte drawn is not looked into; masking it by nn leaves no bit outside nn. -/
theorem rndResult : Obligations.RndResult := by
  refine ⟨decodesAs_groupRow fun _ => decode_groupC, fun x nn s => ?_⟩
  have hval := State.getV_setV_same s.countDraw x (Config.drawByte s.draws &&& nn)
  refine ⟨_, rfl, fun k => ?_, ?_, rfl,
    (frame_countDraw s rfl).trans (frame_setV _ _ (List.mem_singleton_self x))⟩
  · rw [hval, BitVec.getLsbD_and]
  · rw [hval, BitVec.and_assoc, BitVec.and_not_self]
    exact BitVec.and_zero

/-! ### A result, then the flag (00_scope.md R7): ADD, SUB, SUBN, SHR, SHL -/

/-- The result stands in V[x] unless x is VF, and the flag in VF in any case. -/
theorem setResultThenFlag_result (s : State) (x : Reg) {r f g : Byte} {n : Nat} (hr : r.toNat = n) (hf : f = g) :
    (x ≠ 15 → ((s.setResultThenFlag x r f).getV x).toNat = n) ∧ (s.setResultThenFlag x r f).getV 15 = g ∧
      Frame { regs := [x, 15] } s (s.setResultThenFlag x r f) :=
  ⟨fun hx => (congrArg BitVec.toNat (State.getV_setResultThenFlag_result s hx r f)).trans hr,
    (State.getV_setResultThenFlag_flagReg s x r f).trans hf,
    frame_setResultThenFlag s r f (List.mem_pair.2 (.inl rfl)) (List.mem_pair.2 (.inr rfl))⟩

/-- The same with the flag as a number. -/
theorem setResultThenFlag_result_toNat (s : State) (x : Reg) {r f : Byte} {n m : Nat} (hr : r.toNat = n)
    (hf : f.toNat = m) :
    (x ≠ 15 → ((s.setResultThenFlag x r f).getV x).toNat = n) ∧
      ((s.setResultThenFlag x r f).getV 15).toNat = m ∧
      Frame { regs := [x, 15] } s (s.setResultThenFlag x r f) := by
  obtain ⟨hres, hflag, hframe⟩ := setResultThenFlag_result s x hr (rfl : f = f)
  exact ⟨hres, (congrArg BitVec.toNat hflag).trans hf, hframe⟩

theorem flagOf_decide (p : Prop) [Decidable p] : flagOf (decide p) = if p then 1 else 0 := by
  simp only [flagOf, decide_eq_true_eq]

/-- Settles O22: the sum modulo 256, then its carry. -/
theorem addRegResult : Obligations.AddRegResult :=
  ⟨decodesAs_group8 0x4,
    fun x _ s => ⟨_, exec_addReg .., setResultThenFlag_result s x (BitVec.toNat_add ..) (flagOf_decide _)⟩⟩

/-- The difference a - b modulo 256, then its no-borrow flag. -/
theorem setDifference_result (s : State) (x : Reg) (a b : Byte) :
    let t := s.setResultThenFlag x (a - b) (noBorrowFlag a b)
    (x ≠ 15 → (t.getV x).toNat = (a.toNat + 256 - b.toNat) % 256) ∧
      t.getV 15 = (if a.toNat ≥ b.toNat then 1 else 0) ∧ Frame { regs := [x, 15] } s t := by
  have hdiff : (a - b).toNat = (a.toNat + 256 - b.toNat) % 256 := by
    rw [BitVec.toNat_sub', ← Nat.add_sub_assoc b.isLt.le]
  exact setResultThenFlag_result s x hdiff (flagOf_decide _)

/-- Settles O23: SUB and SUBN are the two differences. -/
theorem subtractResult : Obligations.SubtractResult :=
  ⟨⟨decodesAs_group8 0x5, fun x y s => ⟨_, rfl, setDifference_result s x (s.getV x) (s.getV y)⟩⟩,
    decodesAs_group8 0x7, fun x y s => ⟨_, rfl, setDifference_result s x (s.getV y) (s.getV x)⟩⟩

/-! ### Shifts -/

theorem toNat_shrFlag (a : Byte) : (shrFlag a).toNat = a.toNat % 2 := by
  have hbit : a.getLsbD 0 = decide (a.toNat % 2 = 1) := Nat.testBit_zero a.toNat
  rw [shrFlag, hbit, toNat_flagOf]
  simp only [decide_eq_true_eq]
  split <;> omega

theorem getLsbD_seven (a : Byte) : a.getLsbD 7 = !decide (a.toNat < 128) := by
  have hmsb : a.getLsbD 7 = decide (128 ≤ a.toNat) :=
    (BitVec.msb_eq_getLsbD_last a).symm.trans (BitVec.msb_eq_decide a)
  rw [hmsb, ← decide_not]
  simp only [Nat.not_lt]

/-- Bit 7 in its place is 0x80 or 0 (R131). -/
theorem toNat_and_bit7 (a : Byte) : (a &&& 0x80).toNat = if a.toNat < 128 then 0 else 128 := by
  have hand : (a &&& 0x80).toNat = (a.getLsbD 7).toNat * 128 := Nat.and_two_pow a.toNat 7
  rw [hand, getLsbD_seven]
  by_cases h : a.toNat < 128 <;> simp [h]

theorem toNat_shlFlag (normalised : Bool) (a : Byte) :
    (shlFlag normalised a).toNat = if a.toNat < 128 then 0 else if normalised = true then 1 else 128 := by
  cases normalised with
  | false => exact toNat_and_bit7 a
  | true =>
    have hflag : (shlFlag true a).toNat = if a.getLsbD 7 then 1 else 0 := toNat_flagOf _
    rw [hflag, getLsbD_seven]
    by_cases h : a.toNat < 128 <;> simp [h]

/-- Settles O24: the half of the shifted register, then its bit 0, whichever register is shifted. -/
theorem shrResult : Obligations.ShrResult := by
  refine ⟨decodesAs_group8 0x6, fun x y s => rfl, ?_⟩
  rintro usesVy x y s _ rfl _ rfl
  exact setResultThenFlag_result_toNat s x (BitVec.toNat_ushiftRight (shiftOperand usesVy s x y) 1)
    (toNat_shrFlag _)

/-- Settles O25: the double of the shifted register modulo 256, then its bit 7, under either setting of each. -/
theorem shlResult : Obligations.ShlResult := by
  refine ⟨decodesAs_group8 0xE, fun x y s => rfl, ?_⟩
  rintro usesVy normalised x y s _ rfl _ rfl
  have hdouble : (shiftOperand usesVy s x y <<< 1).toNat = 2 * (shiftOperand usesVy s x y).toNat % 256 := by
    rw [BitVec.toNat_shiftLeft, Nat.shiftLeft_eq, Nat.pow_one, Nat.mul_comm]
  exact setResultThenFlag_result_toNat s x hdouble (toNat_shlFlag normalised _)

end Sys2Proof.Machine
end

section
/-!
The index register and the instructions that move bytes through it (42_index_memory.md R150 to R158): the encoding of
each from its row, and its result from the range check and the one write that follows it.
-/

namespace Sys2Proof.Machine

/-! ### The rows of the index and memory instructions (30_encoding.md R66) -/

theorem decode_groupA {w : Word} (h : (opField w).val = 0xA) : decode w = .ok (.ldI (nnnField w)) := by
  simp only [decode, h]

/-- A row of group F decodes as the low byte `sub` selects. -/
theorem decodesAs_groupF {p : Word} {f : Word → Instr} (sub : Nat)
    (h : ∀ w, (nnField w).toNat = sub → decodeGroupF w = .ok (f w) := by intro w h; simp only [decodeGroupF, h])
    (hp : p.toNat = 15 * 4096 + sub := by rfl) (hs : sub < 256 := by decide) : DecodesAs ⟨p, 0xF0FF⟩ f :=
  decodesAs_byteRow (fun w hop hsub => (decode_groupF hop).trans (h w hsub)) hp hs

/-! ### I alone: LD I, ADD I, LD F -/

/-- Settles O27: I takes the address, or the sum modulo 65536. -/
theorem indexRegisterResult : Obligations.IndexRegisterResult := by
  refine ⟨⟨decodesAs_groupRow fun _ => decode_groupA, fun nnn s => ?_⟩, decodesAs_groupF 0x1E, fun x s => ?_⟩
  · exact ⟨_, rfl, toNat_addrOperand nnn, frame_setI s _ rfl⟩
  · refine ⟨_, rfl, ?_, frame_setI s _ rfl⟩
    rw [State.setI_i, BitVec.toNat_add, toNat_wordOperand]

theorem val_fontDigit (b : Byte) : (fontDigit b).val = b.toNat % 16 :=
  BitVec.extractLsb'_toNat 0 4 b

/-- The glyph's address is below 80, so it fits a word (R153). -/
theorem toNat_glyphAddr (d : Fin 16) : (glyphAddr d).toNat = 5 * d.val := by
  rw [glyphAddr, BitVec.toNat_ofNat, Config.fontBase]
  omega

theorem exec_ldF (x : Reg) (s : State) : exec (.ldF x) s = .next (s.setI (glyphAddr (fontDigit (s.getV x)))) := rfl

/-- Settles O28: I takes the address computed from the digit. -/
theorem ldFResult : Obligations.LdFResult := by
  refine ⟨decodesAs_groupF 0x29, fun x s => ⟨_, exec_ldF x s, ?_, frame_setI s _ rfl⟩⟩
  rw [State.setI_i, toNat_glyphAddr, val_fontDigit]

/-- A run inside a run of bytes. -/
theorem State.readBytes_add (s : State) {base k m n : Nat} (h : k + m ≤ n) :
    s.readBytes (base + k) m = ((s.readBytes base n).drop k).take m := by
  refine List.ext_getElem ?_ fun j _ _ => ?_
  · simp only [List.length_take, List.length_drop, length_readBytes]
    omega
  · simp only [List.getElem_take, List.getElem_drop, getElem_readBytes, Nat.add_assoc]

/-- Settles O34: the five bytes at the glyph's address are five of the eighty of the font. -/
theorem ldFPointsAtGlyph : Obligations.LdFPointsAtGlyph := by
  intro x s hfont
  have hglyph {d : Nat} (hd : (s.getV x).toNat % 16 = d) :
      s.readBytes (glyphAddr (fontDigit (s.getV x))).toNat 5 = (fontData.drop (5 * d)).take 5 := by
    have hrun := s.readBytes_add (base := 0) (k := 5 * d) (m := 5) (n := 80) (by omega)
    rw [toNat_glyphAddr, val_fontDigit, hd, ← hfont, ← hrun, Nat.zero_add]
  exact ⟨_, exec_ldF x s, hglyph rfl, hglyph, hglyph, hglyph, hglyph⟩

/-! ### After the range check (20_memory.md R45) -/

section
variable {s t : State} {count : Nat} {r : Result}

theorem RangeChecked.next (h : RangeChecked s count r t) (hr : InRange s.i count) : r = .next t := by
  rcases h with ⟨-, h⟩ | ⟨hout, -⟩
  · exact h
  · exact absurd hr hout

theorem RangeChecked.fault (h : RangeChecked s count r t) (hr : ¬ InRange s.i count) :
    ∃ u, r = .next u ∧ FaultTaken .memoryOutOfRange (s.pc - 2) (firstBad s.i) s u := by
  rcases h with ⟨hin, -⟩ | ⟨-, h⟩
  · exact absurd hin hr
  · exact ⟨_, h, faultTaken_raise_instrAddr s _ _⟩

end

/-- The range of a run of registers, I to I + x. -/
theorem inRange_succ_iff {base : Word} {n : Nat} : InRange base (n + 1) ↔ base.toNat + n ≤ 4095 := by
  rw [InRange]
  omega

/-! ### LD B -/

/-- The three digits, stored from base upward (R154). -/
theorem State.readByte_writeBytes_bcdDigits {s : State} (h : s.mem.wf) (base : Nat) (a : Byte) :
    let t := s.writeBytes base (bcdDigits a)
    (t.readByte base).toNat = a.toNat / 100 ∧ (t.readByte (base + 1)).toNat = a.toNat / 10 % 10 ∧
      (t.readByte (base + 2)).toNat = a.toNat % 10 := by
  have hdigit {k n : Nat} (hk : k < 3) (hn : n < 256) (hd : (bcdDigits a)[k] = BitVec.ofNat 8 n) :
      ((s.writeBytes base (bcdDigits a)).readByte (base + k)).toNat = n := by
    rw [State.readByte_writeBytes_inside h hk, hd, BitVec.toNat_ofNat, Nat.mod_eq_of_lt hn]
  exact ⟨hdigit (k := 0) (by decide) (by omega) rfl, hdigit (k := 1) (by decide) (by omega) rfl,
    hdigit (k := 2) (by decide) (by omega) rfl⟩

/-- Settles O29: the range check, then the three digits stored. -/
theorem ldBResult : Obligations.LdBResult := by
  refine ⟨decodesAs_groupF 0x33, fun x s hin => ?_, fun x s hout => ?_⟩
  · refine ⟨_, (execLdB_rangeChecked x s).next (inRange_succ_iff.2 hin),
      fun hwf => State.readByte_writeBytes_bcdDigits hwf _ _, frame_writeBytes s _ _ fun k hk => ?_⟩
    exact List.mem_map_of_mem (f := (s.i.toNat + ·)) (List.mem_range.2 hk)
  · exact (execLdB_rangeChecked x s).fault (mt inRange_succ_iff.1 (Nat.not_le.2 hout))

/-! ### I after a register save or restore -/

/-- With the range in memory, I + x + 1 is 4096 at most and does not wrap (R152). -/
theorem toNat_indexAfter (increments : Bool) {base : Word} {x : Reg} (h : base.toNat + x.val ≤ 4095) :
    (indexAfter increments base x).toNat = if increments = true then base.toNat + x.val + 1 else base.toNat := by
  cases increments with
  | false => rfl
  | true =>
    have hsum : (indexAfter true base x).toNat = (base.toNat + (x.val + 1) % 65536) % 65536 := rfl
    rw [hsum, if_pos rfl]
    omega

/-- I may be written exactly when LOADSTORE_INCREMENTS_I is set. -/
theorem frame_setI_indexAfter {m : May} {s : State} {base : Word} (x : Reg) (hb : base = s.i) :
    Frame m s (s.setI (indexAfter m.i base x)) :=
  { Frame.refl m s with i := fun hm => by rw [State.setI_i, hm, hb]; rfl }

/-! ### LD [I], Vx -/

/-- A register save puts V[k] at base + k (R155). -/
theorem State.readByte_writeBytes_regsUpTo {s : State} (h : s.mem.wf) (base : Nat) {x k : Reg}
    (hk : k.val ≤ x.val) : (s.writeBytes base (s.regsUpTo x)).readByte (base + k.val) = s.getV k := by
  have hlen : k.val < (s.regsUpTo x).length := by
    rw [length_regsUpTo]
    omega
  rw [State.readByte_writeBytes_inside h hlen, getElem_regsUpTo]

/-- Settles O30: the range check, then the registers stored, then I under either setting. -/
theorem ldMemVxResult : Obligations.LdMemVxResult := by
  refine ⟨decodesAs_groupF 0x55, fun x s => rfl, fun increments x s hin => ?_, fun increments x s hout => ?_⟩
  · refine ⟨_, (saveRegs_rangeChecked increments x s).next (inRange_succ_iff.2 hin),
      fun hwf k hk => State.readByte_writeBytes_regsUpTo hwf _ hk, toNat_indexAfter increments hin,
      (frame_writeBytes s _ (s.regsUpTo x) fun k hk => ?_).trans (frame_setI_indexAfter x rfl)⟩
    exact List.mem_map_of_mem (List.mem_range.2 (length_regsUpTo s x ▸ hk))
  · exact (saveRegs_rangeChecked increments x s).fault (mt inRange_succ_iff.1 (Nat.not_le.2 hout))

/-! ### LD Vx, [I] -/

/-- A register restore loads V[k] from base + k and leaves the registers above x (R156). -/
theorem State.getV_setRegs_readBytes (s : State) (base : Nat) (x k : Reg) :
    (s.setRegs (s.readBytes base (x.val + 1))).getV k =
      if k.val ≤ x.val then s.readByte (base + k.val) else s.getV k := by
  have hlen := length_readBytes s base (x.val + 1)
  rw [State.getV_setRegs s _ k (by omega)]
  split
  · rw [getElem_readBytes, if_pos (by omega)]
  · rw [if_neg (by omega)]

/-- Settles O31: the range check, then the registers loaded, then I under either setting. -/
theorem ldVxMemResult : Obligations.LdVxMemResult := by
  refine ⟨decodesAs_groupF 0x65, fun x s => rfl, fun increments x s hin => ?_, fun increments x s hout => ?_⟩
  · exact ⟨_, (restoreRegs_rangeChecked increments x s).next (inRange_succ_iff.2 hin),
      fun k hk => (State.getV_setRegs_readBytes s _ x k).trans (if_pos hk), toNat_indexAfter increments hin,
      (frame_setRegs s x (length_readBytes s _ _) (List.Subset.refl _)).trans (frame_setI_indexAfter x rfl)⟩
  · exact (restoreRegs_rangeChecked increments x s).fault (mt inRange_succ_iff.1 (Nat.not_le.2 hout))

/-! ### What follows a save or a restore -/

/-- A save in memory writes the bytes and nothing else, LOADSTORE_INCREMENTS_I being false (00_scope.md R4). -/
theorem exec_ldMemVx_of_le {x : Reg} {s : State} (h : s.i.toNat + x.val ≤ 4095) :
    exec (.ldMemVx x) s = .next (s.writeBytes s.i.toNat (s.regsUpTo x)) :=
  (saveRegs_rangeChecked false x s).next (inRange_succ_iff.2 h)

/-- A restore in memory writes the registers and nothing else, LOADSTORE_INCREMENTS_I being false (00_scope.md R4). -/
theorem exec_ldVxMem_of_le {x : Reg} {s : State} (h : s.i.toNat + x.val ≤ 4095) :
    exec (.ldVxMem x) s = .next (s.setRegs (s.readBytes s.i.toNat (x.val + 1))) :=
  (restoreRegs_rangeChecked false x s).next (inRange_succ_iff.2 h)

/-- The registers a save has stored, loaded back, are the registers as they were. -/
theorem State.getV_restore_of_save {s : State} (h : s.mem.wf) (base : Nat) (x k : Reg) :
    let t := s.writeBytes base (s.regsUpTo x)
    (t.setRegs (t.readBytes base (x.val + 1))).getV k = s.getV k := by
  intro t
  rw [State.getV_setRegs_readBytes]
  split
  · exact State.readByte_writeBytes_regsUpTo h base ‹_›
  · rfl

/-- The bytes a restore has loaded, stored back, leave memory reading as it did. -/
theorem State.readByte_save_of_restore {s : State} (h : s.mem.wf) (base : Nat) (x : Reg) (a : Nat) :
    let t := s.setRegs (s.readBytes base (x.val + 1))
    (t.writeBytes base (t.regsUpTo x)).readByte a = s.readByte a := by
  intro t
  by_cases ha : a < base ∨ base + (x.val + 1) ≤ a
  · rw [State.readByte_writeBytes_other t (by rwa [length_regsUpTo])]
    rfl
  · obtain ⟨k, hk, rfl⟩ : ∃ k : Reg, k.val ≤ x.val ∧ a = base + k.val :=
      ⟨⟨a - base, by omega⟩, by simp only; omega, by simp only; omega⟩
    rw [State.readByte_writeBytes_regsUpTo (s := t) h base hk, State.getV_setRegs_readBytes, if_pos hk]

/-- Settles O32: both round trips, the second operation running where the first left I. -/
theorem saveRestoreRoundTrip : Obligations.SaveRestoreRoundTrip := by
  refine fun x s hwf hin => ⟨?_, ?_⟩
  · exact ⟨_, _, exec_ldMemVx_of_le hin, exec_ldVxMem_of_le hin, rfl, State.getV_restore_of_save hwf _ x⟩
  · exact ⟨_, _, exec_ldVxMem_of_le hin, exec_ldMemVx_of_le hin, rfl, State.readByte_save_of_restore hwf _ x⟩

/-- Two neighbouring saved registers are a word of memory, the lower one its high byte (20_memory.md R42). -/
theorem State.wordAt_writeBytes_regsUpTo {s : State} (h : s.mem.wf) (base : Nat) {x j k : Reg}
    (hjk : k.val = j.val + 1) (hk : k.val ≤ x.val) :
    (s.writeBytes base (s.regsUpTo x)).wordAt (base + j.val) = wordOfBytes (s.getV j) (s.getV k) := by
  have hlo := State.readByte_writeBytes_regsUpTo h base hk
  rw [hjk, ← Nat.add_assoc] at hlo
  rw [State.wordAt, State.readByte_writeBytes_regsUpTo h base (by omega), hlo]

/-- Settles O33: the save leaves the core running and pc where it was, so the strobe fetches the word just stored. -/
theorem storedWordIsExecutedNext : Obligations.StoredWordIsExecutedNext := by
  intro x s t hwf hh hw hle hpc hin hst j k hj hjk
  cases (exec_ldMemVx_of_le hin).symm.trans hst
  have hword := State.wordAt_writeBytes_regsUpTo hwf s.i.toNat (x := x) hjk (by omega)
  rw [hj] at hword
  rw [← hword]
  exact instrStep_eq_execWord (s := s.writeBytes _ _) hh hw (by rw [State.writeBytes_pc]; omega)

end Sys2Proof.Machine
end

section
/-!
The display (43_display.md R171 to R174): the encoding and the result of CLS and DRW, two draws of one sprite, and what
may clear CHANGED.
-/

namespace Sys2Proof.Machine

/-! ### CLS -/

theorem decode_cls {w : Word} (h : (opField w).val = 0x0) (hb : (nnField w).toNat = 0xE0) :
    decode w = .ok .cls := by
  rw [decode_group0 h, decodeGroup0]
  simp only [hb]

theorem exec_cls (s : State) : exec .cls s = .next { s with disp := Display.blank, changed := true } := rfl

/-- Settles O35: CLS writes the blank buffer and CHANGED, and no other field. -/
theorem clsResult : Obligations.ClsResult :=
  ⟨decodesAs_byteRow fun _ => decode_cls,
    fun s => ⟨_, exec_cls s, Display.pixel_blank, rfl, { Frame.refl _ s with disp := nofun, changed := nofun }⟩⟩

/-! ### DRW -/

theorem decode_groupD {w : Word} (h : (opField w).val = 0xD) :
    decode w = .ok (.drw (xField w) (yField w) (nField w)) := by
  simp only [decode, h]

/-- The range of a sprite, I to I + n - 1; a height of 0 has none (20_memory.md R45). -/
theorem inRange_iff {base : Word} {count : Nat} :
    InRange base count ↔ count = 0 ∨ base.toNat + count - 1 ≤ 4095 := by
  rw [InRange]
  omega

/-- A sprite in memory is drawn. -/
theorem exec_drw_of_le {x y : Reg} {n : Fin 16} {s : State} (h : n.val = 0 ∨ s.i.toNat + n.val - 1 ≤ 4095) :
    exec (.drw x y n) s = .next (s.draw (s.getV x) (s.getV y) (s.readBytes s.i.toNat n.val)) :=
  (execDrw_rangeChecked x y n s).next (inRange_iff.2 h)

theorem flagOf_eq_one_iff {c : Bool} : flagOf c = 1 ↔ c = true := by
  cases c <;> decide

theorem flagOf_eq_one_or_zero (c : Bool) : flagOf c = 1 ∨ flagOf c = 0 := by
  cases c <;> decide

section
variable (s : State) (vx vy : Byte) (base : Nat) (n : Fin 16)

/-- VF after a draw is 1 exactly on a collision (R172). -/
theorem State.draw_flag_eq_one_iff :
    (s.draw vx vy (s.readBytes base n)).getV 15 = 1 ↔
      ∃ p, SpriteCovers s vx vy base n p ∧ s.disp.pixel p = true := by
  obtain ⟨-, -, hregs, hhit⟩ := s.draw_spec vx vy base n
  rw [hregs, if_pos rfl, flagOf_eq_one_iff, hhit]

theorem State.draw_flag_eq_one_or_zero :
    (s.draw vx vy (s.readBytes base n)).getV 15 = 1 ∨ (s.draw vx vy (s.readBytes base n)).getV 15 = 0 := by
  obtain ⟨-, -, hregs, -⟩ := s.draw_spec vx vy base n
  rw [hregs, if_pos rfl]
  exact flagOf_eq_one_or_zero _

end

/-- Settles O36: the range check, then the draw with its pixels, its flag and its frame. -/
theorem drwResult : Obligations.DrwResult := by
  refine ⟨decodesAs_groupRow fun _ => decode_groupD, fun x y n s hin => ?_, fun x y n s hpos hout => ?_⟩
  · obtain ⟨hcovered, huncovered, -, -⟩ := s.draw_spec (s.getV x) (s.getV y) s.i.toNat n
    have hone := s.draw_flag_eq_one_iff (s.getV x) (s.getV y) s.i.toNat n
    have hzero := s.draw_flag_eq_one_or_zero (s.getV x) (s.getV y) s.i.toNat n
    exact ⟨_, exec_drw_of_le hin, hcovered, huncovered, hone.2, fun h => hzero.resolve_left (mt hone.1 h), rfl,
      frame_draw s _ _ _ (List.mem_singleton_self _) rfl rfl⟩
  · exact (execDrw_rangeChecked x y n s).fault (not_inRange_iff.2 ⟨hpos, hout⟩)

/-! ### One sprite drawn twice -/

section
variable {s s' : State} {vx vy : Byte} {base : Nat} {n : Fin 16}

/-- The places a sprite covers are read from its bytes only. -/
theorem spriteCovers_congr (hbytes : ∀ r, r < n.val → s'.readByte (base + r) = s.readByte (base + r)) (p : Place) :
    SpriteCovers s' vx vy base n p ↔ SpriteCovers s vx vy base n p :=
  exists_congr fun r => exists_congr fun _ => and_congr_right fun hr => by rw [hbytes r hr]

variable (hdisp : s'.disp = (s.draw vx vy (s.readBytes base n)).disp)
  (hbytes : ∀ r, r < n.val → s'.readByte (base + r) = s.readByte (base + r))
include hdisp hbytes

/-- The second draw flips back what the first has flipped (R173). -/
theorem State.draw_draw_disp : (s'.draw vx vy (s'.readBytes base n)).disp = s.disp := by
  obtain ⟨hflip, hkeep, -, -⟩ := s.draw_spec vx vy base n
  obtain ⟨hflip', hkeep', -, -⟩ := s'.draw_spec vx vy base n
  simp only [spriteCovers_congr hbytes] at hflip' hkeep'
  refine Display.ext_pixel fun p => ?_
  by_cases hp : SpriteCovers s vx vy base n p
  · rw [hflip' p hp, hdisp, hflip p hp, Bool.not_not]
  · rw [hkeep' p hp, hdisp, hkeep p hp]

/-- The second draw collides where the first has lit a pixel, which was unlit before it (R173). -/
theorem State.draw_draw_flag_eq_one_iff :
    (s'.draw vx vy (s'.readBytes base n)).getV 15 = 1 ↔
      ∃ p, SpriteCovers s vx vy base n p ∧ s.disp.pixel p = false := by
  obtain ⟨hflip, -, -, -⟩ := s.draw_spec vx vy base n
  rw [State.draw_flag_eq_one_iff]
  refine exists_congr fun p => ?_
  rw [spriteCovers_congr hbytes]
  refine and_congr_right fun hp => ?_
  rw [hdisp, hflip p hp, Bool.not_eq_true']

end

/-- Settles O37: both draws complete, with the same coordinates, I and sprite. -/
theorem drawTwiceIsIdentity : Obligations.DrawTwiceIsIdentity := by
  intro x y n s t s' u hin ht hdisp hx hy hi hbytes hu
  have hu' := exec_drw_of_le (x := x) (y := y) (n := n) (s := s') (by rwa [hi])
  rw [hx, hy, hi] at hu'
  cases (exec_drw_of_le hin).symm.trans ht
  cases hu'.symm.trans hu
  exact ⟨State.draw_draw_disp hdisp hbytes, State.draw_flag_eq_one_iff ..,
    State.draw_draw_flag_eq_one_iff hdisp hbytes, State.draw_flag_eq_one_or_zero ..,
    State.draw_flag_eq_one_or_zero ..⟩

/-! ### CHANGED, once set (R174) -/

section
variable {s : State} (h : s.changed = true)
include h

/-- CLS and DRW set CHANGED, and no other instruction may write it. -/
theorem exec_keeps_changed (i : Instr) : ∃ t, exec i s = .next t ∧ t.changed = true := by
  cases i with
  | cls => exact ⟨_, exec_cls s, rfl⟩
  | drw x y n => exact (execDrw_rangeChecked x y n s).exists_next (fun _ => rfl) h
  | _ =>
    obtain ⟨t, ht, hframe⟩ := exec_frame _ s
    exact ⟨t, ht, (hframe.changed rfl).trans h⟩

theorem instrStep_keeps_changed : ∃ t, instrStep s = .next t ∧ t.changed = true := by
  rcases instrStep_cases s with ⟨-, he⟩ | ⟨-, -, -, he⟩ | ⟨-, -, -, he⟩
  · exact ⟨s, he, h⟩
  · exact ⟨_, he, h⟩
  · rw [he]
    rcases execWord_cases (s.wordAt s.pc.toNat) { s with pc := s.pc + 2 } with ⟨i, -, hx⟩ | ⟨_, -, hx⟩
    · rw [hx]
      exact exec_keeps_changed (s := { s with pc := s.pc + 2 }) h i
    · exact ⟨_, hx, h⟩

theorem keyEvent_keeps_changed (key : Nat) (pressed : Bool) : (keyEvent key pressed s).changed = true := by
  unfold keyEvent
  split
  next hk =>
    rcases applyKey_cases s ⟨key, hk⟩ pressed with ⟨-, -, he⟩ | ⟨-, he⟩
    · rwa [he]
    · rwa [he]
  next => exact h

theorem cycleTimer_keeps_changed (now : Nat) : (s.cycleTimer now).changed = true := by
  rcases cycleTimer_cases now s with ⟨-, he⟩ | ⟨-, he⟩
  · rwa [he]
  · rwa [he]

theorem cycleCall_keeps_changed (now : Nat) : ∃ t, cycleCall now s = .next t ∧ t.changed = true := by
  rcases instrGate_cases now s with ⟨-, -, hg⟩ | ⟨-, hg⟩
  · obtain ⟨t, ht, hc⟩ := instrStep_keeps_changed (s := { s with tInstr := now }) h
    exact ⟨_, cycleCall_of_next (by rw [hg]; exact ht), cycleTimer_keeps_changed hc now⟩
  · exact ⟨_, cycleCall_of_next (by rw [hg]; rfl), cycleTimer_keeps_changed h now⟩

/-- An operation of the host keeps CHANGED set, or it is one of the three that may clear it. -/
theorem hostStep_keeps_changed_or (op : HostOp) :
    (∃ t, hostStep op s = .next t ∧ t.changed = true) ∨
      op = .renderConsume ∨ op = .reset ∨ ∃ blob, op = .load blob := by
  cases op with
  | instrStrobe => exact .inl (instrStep_keeps_changed h)
  | timerStrobe | increaseRate | decreaseRate => exact .inl ⟨_, rfl, h⟩
  | keyEvent key pressed => exact .inl ⟨_, rfl, keyEvent_keeps_changed h key pressed⟩
  | cycle now => exact .inl (cycleCall_keeps_changed h now)
  | renderConsume => exact .inr (.inl rfl)
  | reset => exact .inr (.inr (.inl rfl))
  | load blob => exact .inr (.inr (.inr ⟨blob, rfl⟩))

/-- A step keeps CHANGED set, or it performs one of the three operations that may clear it. -/
theorem step_keeps_changed_or :
    (∃ t, step s = .next t ∧ t.changed = true) ∨
      ∃ rest, s.schedule = .renderConsume :: rest ∨ s.schedule = .reset :: rest ∨
        ∃ blob, s.schedule = .load blob :: rest := by
  rcases step_cases s with ⟨-, he⟩ | ⟨op, rest, hs, he⟩
  · rw [he]
    exact .inl (instrStep_keeps_changed h)
  · rw [he, hs]
    rcases hostStep_keeps_changed_or (s := { s with schedule := rest }) h op with hkept | rfl | rfl | ⟨blob, rfl⟩
    · exact .inl hkept
    · exact .inr ⟨rest, .inl rfl⟩
    · exact .inr ⟨rest, .inr (.inl rfl)⟩
    · exact .inr ⟨rest, .inr (.inr ⟨blob, rfl⟩)⟩

end

/-- Settles O59: a step that finds CHANGED set and clears it can only be one of the three; CLS and DRW by what they
write. -/
theorem onlyTheHostClearsChanged : Obligations.OnlyTheHostClearsChanged := by
  refine ⟨fun s t hs hst ht => (step_keeps_changed_or hs).resolve_left ?_, fun s t hst => ?_,
    fun x y n s t hin hst => ?_⟩
  · rintro ⟨u, hu, hc⟩
    cases hst.symm.trans hu
    simp [ht] at hc
  · cases (exec_cls s).symm.trans hst
    rfl
  · cases (exec_drw_of_le hin).symm.trans hst
    rfl

end Sys2Proof.Machine
end

section
/-!
The keypad (44_keypad.md R185 to R196): the two skips on a key, a key event, the wait that LD Vx, K starts, which only
a press of a key of the pad, a reset or a load ends, and that nothing else starts one.
-/

namespace Sys2Proof.Machine

/-! ### The rows of SKP and SKNP (30_encoding.md R66) -/

/-- A row of group E decodes as the low byte `sub` selects. -/
theorem decodesAs_groupE {p : Word} {f : Word → Instr} (sub : Nat)
    (h : ∀ w, (nnField w).toNat = sub → decodeGroupE w = .ok (f w) := by intro w h; simp only [decodeGroupE, h])
    (hp : p.toNat = 14 * 4096 + sub := by rfl) (hs : sub < 256 := by decide) : DecodesAs ⟨p, 0xF0FF⟩ f :=
  decodesAs_byteRow (fun w hop hsub => (decode_groupE hop).trans (h w hsub)) hp hs

/-! ### SKP and SKNP -/

/-- The key a register selects is its value modulo 16 (44_keypad.md R186). -/
theorem eq_keyIndex {b : Byte} {k : Fin 16} (h : k.val = b.toNat % 16) : k = keyIndex b :=
  Fin.ext (h.trans (BitVec.extractLsb'_toNat 0 4 b).symm)

/-- Settles O38: SKP skips on the flag of its key, then clears it. -/
theorem skpResult : Obligations.SkpResult := by
  refine ⟨decodesAs_groupE 0x9E, fun x s k hk => ?_⟩
  obtain rfl := eq_keyIndex hk
  refine ⟨_, rfl, fun hset => ?_, fun hclear => ?_, ?_,
    (frame_skipIf s _ rfl).trans (frame_setKey _ false (List.mem_singleton_self _))⟩
  · simp [hset]
  · simp [hclear]
  · rw [State.key_setKey, if_pos rfl]

/-- Settles O39: SKNP is the skip on the clear flag of its key. -/
theorem sknpResult : Obligations.SknpResult := by
  refine ⟨decodesAs_groupE 0xA1, fun x s k hk => ?_⟩
  obtain rfl := eq_keyIndex hk
  refine ⟨_, rfl, fun hclear => ?_, fun hset => ?_, frame_skipIf s _ rfl⟩
  · simp [hclear]
  · simp [hset]

/-! ### A key event (44_keypad.md R195) -/

theorem keyEvent_of_key (k : Fin 16) (pressed : Bool) (s : State) :
    keyEvent k.val pressed s = s.applyKey k pressed :=
  dif_pos k.isLt

theorem keyEvent_of_gt {key : Nat} (h : 15 < key) (pressed : Bool) (s : State) : keyEvent key pressed s = s :=
  dif_neg (by omega)

/-- A key event that delivers nothing writes its flag. -/
theorem keyEvent_eq_setKey {k : Fin 16} {pressed : Bool} {s : State} (h : s.waiting = false ∨ pressed = false) :
    keyEvent k.val pressed s = s.setKey k pressed := by
  rw [keyEvent_of_key]
  rcases applyKey_cases s k pressed with ⟨hw, hp, -⟩ | ⟨-, he⟩
  · simp [hw, hp] at h
  · exact he

/-- t is s after the press of the key k: its number in V[WAIT_REG], its flag set, the wait ended, all else as it was. -/
structure Delivered (k : Fin 16) (s t : State) : Prop where
  flag : t.key k = true
  key : (t.getV s.waitReg).toNat = k.val
  done : t.waiting = false
  waitReg : t.waitReg = s.waitReg
  frame : Frame { keys := [k], regs := [s.waitReg], latch := true } s t

theorem frame_endWait {m : May} (s : State) (hm : m.latch = true) : Frame m s { s with waiting := false } :=
  { Frame.refl m s with latch := by simp [hm] }

/-- A press of a key of the pad while waiting delivers the key. -/
theorem keyEvent_delivers (k : Fin 16) {s : State} (hw : s.waiting = true) :
    Delivered k s (keyEvent k.val true s) := by
  rw [keyEvent_of_key]
  rcases applyKey_cases s k true with ⟨-, -, he⟩ | ⟨hno, -⟩
  · rw [he]
    exact {
      flag := (State.key_setKey s k k true).trans (if_pos rfl)
      key := by rw [State.getV_setV_same, BitVec.toNat_ofNat]; omega
      done := rfl
      waitReg := rfl
      frame := (frame_setKey s true (List.mem_singleton_self k)).trans
        ((frame_endWait (s.setKey k true) rfl).trans (frame_setV _ _ (List.mem_singleton_self s.waitReg))) }
  · simp [hw] at hno

/-- Settles O41: by whether the event delivers its key, writes its flag only, or is of no key of the pad. -/
theorem keyEventResult : Obligations.KeyEventResult := by
  refine ⟨fun k pressed s h => ?_, fun k s hw => ?_, fun key pressed s h => ?_⟩
  · refine ⟨s.setKey k pressed, congrArg _ (keyEvent_eq_setKey h), ?_,
      frame_setKey s pressed (List.mem_singleton_self k)⟩
    rw [State.key_setKey, if_pos rfl]
  · obtain ⟨hflag, hreg, hdone, hwaitReg, hframe⟩ := keyEvent_delivers k hw
    exact ⟨_, rfl, hflag, hreg, hdone, hwaitReg, hframe⟩
  · exact congrArg _ (keyEvent_of_gt h pressed s)

/-! ### What the host's operations write outside the program's own state -/

/-- Key flags, CHANGED, the timers, the gate and the outputs: nothing the program computes with while it waits, and
not the latch (10_state.md R31). -/
def eventMay : May :=
  { keys := List.finRange 16, changed := true, dt := true, st := true, gate := true, outputs := true }

theorem frame_timerTick (s : State) : Frame eventMay s (timerTick s) :=
  { Frame.refl _ s with dt := nofun, st := nofun, outputs := nofun }

theorem frame_withTTimer (now : Nat) (s : State) : Frame eventMay s { s with tTimer := now } :=
  { Frame.refl _ s with gate := nofun }

theorem frame_withTInstr (now : Nat) (s : State) : Frame eventMay s { s with tInstr := now } :=
  { Frame.refl _ s with gate := nofun }

theorem frame_increaseRate (s : State) : Frame eventMay s (increaseRate s) :=
  { Frame.refl _ s with gate := nofun }

theorem frame_decreaseRate (s : State) : Frame eventMay s (decreaseRate s) :=
  { Frame.refl _ s with gate := nofun }

theorem frame_renderConsume (s : State) : Frame eventMay s (renderConsume s) := by
  unfold renderConsume
  split
  · exact { Frame.refl _ s with changed := nofun, outputs := nofun }
  · exact Frame.refl _ s

theorem frame_cycleTimer (now : Nat) (s : State) : Frame eventMay s (s.cycleTimer now) := by
  rcases cycleTimer_cases now s with ⟨-, he⟩ | ⟨-, he⟩
  · rw [he]
    exact (frame_withTTimer now s).trans (frame_timerTick _)
  · rw [he]
    exact Frame.refl _ s

/-- A key event that delivers nothing. -/
theorem frame_keyEvent {key : Nat} {pressed : Bool} {s : State}
    (h : 15 < key ∨ s.waiting = false ∨ pressed = false) : Frame eventMay s (keyEvent key pressed s) := by
  by_cases hkey : 15 < key
  · rw [keyEvent_of_gt hkey]
    exact Frame.refl _ s
  · obtain ⟨k, rfl⟩ : ∃ k : Fin 16, k.val = key := ⟨⟨key, by omega⟩, rfl⟩
    rw [keyEvent_eq_setKey (h.resolve_left hkey)]
    exact frame_setKey s pressed (List.mem_finRange k)

/-! ### While the core waits (44_keypad.md R188, R196) -/

/-- An operation is quiet, or it is a press of a key of the pad, a reset or a load. -/
theorem quiet_or (op : HostOp) :
    Quiet op ∨ (∃ k : Fin 16, op = .keyEvent k.val true) ∨ op = .reset ∨ ∃ blob, op = .load blob := by
  cases op with
  | keyEvent key pressed =>
    by_cases hkey : 15 < key
    · exact .inl (.inl hkey)
    · cases pressed with
      | false => exact .inl (.inr rfl)
      | true => exact .inr (.inl ⟨⟨key, by omega⟩, rfl⟩)
  | reset => exact .inr (.inr (.inl rfl))
  | load blob => exact .inr (.inr (.inr ⟨blob, rfl⟩))
  | instrStrobe | timerStrobe | renderConsume | increaseRate | decreaseRate | cycle => exact .inl trivial

/-- Of a cycle() call, a waiting core takes the timestamps and the tick only. -/
theorem cycleCall_frame_of_waiting (now : Nat) {s : State} (hw : s.waiting = true) :
    ∃ t, cycleCall now s = .next t ∧ Frame eventMay s t := by
  rcases instrGate_cases now s with ⟨-, -, hg⟩ | ⟨-, hg⟩
  · have hblocked : instrStep { s with tInstr := now } = .next { s with tInstr := now } :=
      instrStep_of_not_enabled (.inr hw)
    exact ⟨_, cycleCall_of_next (by rw [hg]; exact hblocked), (frame_withTInstr now s).trans (frame_cycleTimer now _)⟩
  · exact ⟨_, cycleCall_of_next (by rw [hg]; rfl), frame_cycleTimer now s⟩

/-- A quiet operation leaves a waiting core's program where it is, and the core waiting. -/
theorem hostStep_frame_of_quiet {op : HostOp} {s : State} (hw : s.waiting = true) (hq : Quiet op) :
    ∃ t, hostStep op s = .next t ∧ Frame eventMay s t := by
  cases op with
  | instrStrobe => exact ⟨s, instrStep_of_not_enabled (.inr hw), Frame.refl _ s⟩
  | timerStrobe => exact ⟨_, rfl, frame_timerTick s⟩
  | keyEvent key pressed => exact ⟨_, rfl, frame_keyEvent (hq.imp_right .inr)⟩
  | renderConsume => exact ⟨_, rfl, frame_renderConsume s⟩
  | increaseRate => exact ⟨_, rfl, frame_increaseRate s⟩
  | decreaseRate => exact ⟨_, rfl, frame_decreaseRate s⟩
  | reset | load => exact hq.elim
  | cycle now => exact cycleCall_frame_of_waiting now hw

/-- The same over any number of quiet operations. -/
theorem runOps_frame_of_quiet {ops : List HostOp} {s : State} (hw : s.waiting = true)
    (hq : ∀ op ∈ ops, Quiet op) : ∃ u, runOps ops s = .next u ∧ Frame eventMay s u := by
  induction ops generalizing s with
  | nil => exact ⟨s, rfl, Frame.refl _ s⟩
  | cons op ops ih =>
    obtain ⟨hop, hops⟩ := List.forall_mem_cons.1 hq
    obtain ⟨t, ht, hst⟩ := hostStep_frame_of_quiet hw hop
    obtain ⟨u, hu, htu⟩ := ih ((hst.latch rfl).1.trans hw) hops
    exact ⟨u, by rw [runOps, ht]; exact hu, hst.trans htu⟩

/-- Settles O40: LD Vx, K starts the wait, the quiet operations leave it, and the press delivers to V[x]. -/
theorem awaitKeyProtocol : Obligations.AwaitKeyProtocol := by
  refine ⟨decodesAs_groupF 0x0A, fun x s => ⟨{ s with waiting := true, waitReg := x }, rfl, rfl, rfl,
    { Frame.refl _ s with latch := nofun }, fun ops hq => ?_⟩⟩
  obtain ⟨u, hu, hframe⟩ := runOps_frame_of_quiet (s := { s with waiting := true, waitReg := x }) rfl hq
  have hpc : u.pc = s.pc := hframe.pc rfl
  obtain ⟨hwaiting, hwaitReg⟩ := hframe.latch rfl
  refine ⟨u, hu, hwaiting, hwaitReg, hpc, fun k => ?_⟩
  have hdel := keyEvent_delivers k hwaiting
  have hkey := hdel.key
  rw [hwaitReg] at hkey
  exact ⟨_, rfl, hdel.done, (hdel.frame.pc rfl).trans hpc, hkey⟩

/-- A step of a waiting core that is no reset and no load is quiet, or delivers a key. -/
theorem step_cases_of_waiting {s : State} (hw : s.waiting = true) (hreset : ∀ rest, s.schedule ≠ .reset :: rest)
    (hload : ∀ blob rest, s.schedule ≠ .load blob :: rest) :
    ((¬ ∃ k rest, k < 16 ∧ s.schedule = .keyEvent k true :: rest) ∧
      ∃ rest t, step s = .next t ∧ Frame eventMay { s with schedule := rest } t) ∨
    (∃ (k : Fin 16) (rest : List HostOp) (t : State), s.schedule = .keyEvent k.val true :: rest ∧
      step s = .next t ∧ Delivered k { s with schedule := rest } t) := by
  rcases step_cases s with ⟨hs, he⟩ | ⟨op, rest, hs, he⟩
  · exact .inl ⟨by simp [hs], s.schedule, s, he.trans (instrStep_of_not_enabled (.inr hw)), Frame.refl _ s⟩
  · rcases quiet_or op with hq | ⟨k, rfl⟩ | rfl | ⟨blob, rfl⟩
    · obtain ⟨t, ht, hframe⟩ := hostStep_frame_of_quiet (s := { s with schedule := rest }) hw hq
      refine .inl ⟨?_, rest, t, he.trans ht, hframe⟩
      rintro ⟨k, rest', hk, hs'⟩
      cases hs.symm.trans hs'
      exact hq.elim (by omega) (by simp)
    · exact .inr ⟨k, rest, _, hs, he, keyEvent_delivers k hw⟩
    · exact absurd hs (hreset rest)
    · exact absurd hs (hload blob rest)

/-- Settles O42: a quiet step changes none of these, and a press what it delivers. -/
theorem waitingFreezesTheProgram : Obligations.WaitingFreezesTheProgram := by
  intro s t hw hst hreset hload
  rcases step_cases_of_waiting hw hreset hload with ⟨hnone, rest, u, hu, hf⟩ | ⟨k, rest, u, hs, hu, hdel⟩
  · cases hst.symm.trans hu
    have hwaiting : t.waiting = true := (hf.latch rfl).1.trans hw
    have hregs : ∀ k, t.getV k = s.getV k := fun k => hf.regs k List.not_mem_nil
    exact ⟨hf.pc rfl, hf.i rfl, hf.stack rfl, fun a => hf.bytes a List.not_mem_nil, hf.disp rfl,
      fun k _ => hregs k, iff_of_false (by simp [hwaiting]) hnone, fun _ => hregs _, by simp [hwaiting]⟩
  · cases hst.symm.trans hu
    have hf := hdel.frame
    exact ⟨hf.pc rfl, hf.i rfl, hf.stack rfl, fun a => hf.bytes a List.not_mem_nil, hf.disp rfl,
      fun j hj => hf.regs j (mt List.mem_singleton.1 hj), iff_of_true hdel.done ⟨k, rest, k.isLt, hs⟩,
      by simp [hdel.done], fun _ => hdel.key.trans_lt k.isLt⟩

/-! ### What starts a wait (44_keypad.md R188, R196 b) -/

/-- The word at pc is an LD Vx, K word that a running core would fetch. -/
def AwaitKeyAtPc (x : Reg) (s : State) : Prop :=
  s.halted = false ∧ s.pc.toNat ≤ 4094 ∧ decode (s.wordAt s.pc.toNat) = .ok (.ldVxK x)

section
variable {s : State} (hw : s.waiting = false)
include hw

/-- Whatever writes no latch starts no wait. -/
theorem Frame.starts_no_wait {m : May} {t : State} {P : Prop} (hf : Frame m s t) (hm : m.latch = false)
    (ht : t.waiting = true) : P := by
  simp [(hf.latch hm).1, hw] at ht

/-- Only LD Vx, K writes the latch. -/
theorem exec_starts_wait (i : Instr) :
    ∃ t, exec i s = .next t ∧ (t.waiting = true → i = .ldVxK t.waitReg) := by
  by_cases hi : ∃ x, i = .ldVxK x
  · obtain ⟨x, rfl⟩ := hi
    exact ⟨_, rfl, fun _ => rfl⟩
  · obtain ⟨t, ht, hframe⟩ := exec_frame i s
    exact ⟨t, ht, hframe.starts_no_wait hw (mayWrite_latch fun x hx => hi ⟨x, hx⟩)⟩

theorem instrStep_starts_wait :
    ∃ t, instrStep s = .next t ∧ (t.waiting = true → AwaitKeyAtPc t.waitReg s) := by
  rcases instrStep_cases s with ⟨-, he⟩ | ⟨-, -, -, he⟩ | ⟨hh, -, hp, he⟩
  · exact ⟨s, he, fun h => by simp [hw] at h⟩
  · exact ⟨_, he, fun h => by simp [hw] at h⟩
  · rw [he]
    rcases execWord_cases (s.wordAt s.pc.toNat) { s with pc := s.pc + 2 } with ⟨i, hd, hx⟩ | ⟨_, -, hx⟩
    · obtain ⟨t, ht, hstart⟩ := exec_starts_wait (s := { s with pc := s.pc + 2 }) hw i
      exact ⟨t, hx.trans ht, fun h => ⟨hh, hp, hstart h ▸ hd⟩⟩
    · exact ⟨_, hx, fun h => by simp [hw] at h⟩

theorem cycleCall_starts_wait (now : Nat) :
    ∃ t, cycleCall now s = .next t ∧ (t.waiting = true → AwaitKeyAtPc t.waitReg s) := by
  rcases instrGate_cases now s with ⟨-, -, hg⟩ | ⟨-, hg⟩
  · obtain ⟨u, hu, hstart⟩ := instrStep_starts_wait (s := { s with tInstr := now }) hw
    obtain ⟨hwaiting, hwaitReg⟩ := (frame_cycleTimer now u).latch rfl
    exact ⟨_, cycleCall_of_next (by rw [hg]; exact hu), by rw [hwaiting, hwaitReg]; exact hstart⟩
  · exact ⟨_, cycleCall_of_next (by rw [hg]; rfl), (frame_cycleTimer now s).starts_no_wait hw rfl⟩

theorem loadProgram_waiting (blob : List Byte) : (loadProgram blob s).waiting = false := by
  unfold loadProgram
  split
  · exact hw
  · rfl

theorem hostStep_starts_wait (op : HostOp) :
    ∃ t, hostStep op s = .next t ∧ (t.waiting = true → AwaitKeyAtPc t.waitReg s) := by
  cases op with
  | instrStrobe => exact instrStep_starts_wait hw
  | timerStrobe => exact ⟨_, rfl, (frame_timerTick s).starts_no_wait hw rfl⟩
  | keyEvent key pressed => exact ⟨_, rfl, (frame_keyEvent (.inr (.inl hw))).starts_no_wait hw rfl⟩
  | renderConsume => exact ⟨_, rfl, (frame_renderConsume s).starts_no_wait hw rfl⟩
  | increaseRate => exact ⟨_, rfl, (frame_increaseRate s).starts_no_wait hw rfl⟩
  | decreaseRate => exact ⟨_, rfl, (frame_decreaseRate s).starts_no_wait hw rfl⟩
  | reset => exact ⟨_, rfl, nofun⟩
  | load blob => exact ⟨_, rfl, fun h => by simp [loadProgram_waiting hw] at h⟩
  | cycle now => exact cycleCall_starts_wait hw now

theorem step_starts_wait : ∃ t, step s = .next t ∧ (t.waiting = true → AwaitKeyAtPc t.waitReg s) := by
  rcases step_cases s with ⟨-, he⟩ | ⟨op, rest, -, he⟩
  · rw [he]
    exact instrStep_starts_wait hw
  · rw [he]
    exact hostStep_starts_wait (s := { s with schedule := rest }) hw op

end

/-- Settles O43: of all operations only the strobe, by itself or in a cycle() call, starts a wait, and it does so only
over an LD Vx, K word. -/
theorem onlyAwaitKeySetsWaiting : Obligations.OnlyAwaitKeySetsWaiting := by
  intro s t hw hst ht
  obtain ⟨u, hu, hstart⟩ := step_starts_wait hw
  cases hst.symm.trans hu
  obtain ⟨hh, hp, hd⟩ := hstart ht
  exact ⟨t.waitReg, hd, rfl, hh, hp⟩

end Sys2Proof.Machine
end

section
/-!
The timer instructions (45_timers.md R200 to R202): each moves one byte between a register and a timer, and writes
nothing but its destination; the strobes belong to the tick (60_exceptions.md R222).
-/

namespace Sys2Proof.Machine

/-! ### Writing a timer -/

section
variable {m : May}

theorem frame_withDt (s : State) (b : Byte) (hm : m.dt = true) : Frame m s { s with dt := b } :=
  { Frame.refl m s with dt := by simp [hm] }

theorem frame_withSt (s : State) (b : Byte) (hm : m.st = true) : Frame m s { s with st := b } :=
  { Frame.refl m s with st := by simp [hm] }

end

/-! ### The three moves -/

theorem exec_ldVxDT (x : Reg) (s : State) : exec (.ldVxDT x) s = .next (s.setV x s.dt) := rfl

theorem exec_ldDTVx (x : Reg) (s : State) : exec (.ldDTVx x) s = .next { s with dt := s.getV x } := rfl

theorem exec_ldSTVx (x : Reg) (s : State) : exec (.ldSTVx x) s = .next { s with st := s.getV x } := rfl

/-- Settles O44: each row of group F selects its move, and the move is one write of its destination. -/
theorem timerMoveResult : Obligations.TimerMoveResult := by
  refine ⟨⟨decodesAs_groupF 0x07, fun x s => ?_⟩, ⟨decodesAs_groupF 0x15, fun x s => ?_⟩,
    ⟨decodesAs_groupF 0x18, fun x s => ?_⟩⟩
  · exact ⟨_, exec_ldVxDT x s, setV_result s x s.dt⟩
  · exact ⟨_, exec_ldDTVx x s, rfl, frame_withDt s (s.getV x) rfl⟩
  · exact ⟨_, exec_ldSTVx x s, rfl, frame_withSt s (s.getV x) rfl⟩

end Sys2Proof.Machine
end

section
/-!
Ticks, render-consume and a halted core (60_exceptions.md R222, R223, R232, R213, R215, R237): what one tick and n ticks
in a row do to the timers and send to the host, the one frame a render-consume takes, and that a halted core that is not
waiting stays frozen until a reset or a load that fits.
-/

namespace Sys2Proof.Machine

/-! ### One tick (R222) -/

/-- The frame of a tick wherever m allows the timers and the outputs. -/
theorem frame_timerTick_of_allowed {m : May} (s : State) (hdt : m.dt = true) (hst : m.st = true)
    (hout : m.outputs = true) : Frame m s (timerTick s) :=
  { Frame.refl m s with dt := by simp [hdt], st := by simp [hst], outputs := by simp [hout] }

/-- Settles O45: both timers count down, and the strobes are those of the value the tick finds in ST. -/
theorem timerTickResult : Obligations.TimerTickResult := by
  intro s
  refine ⟨timerTick s, rfl, toNat_countDown s.dt, toNat_countDown s.st, ?_⟩
  rw [timerTick_outputs]
  have hframe : Frame { dt := true, st := true, outputs := true } s (timerTick s) :=
    frame_timerTick_of_allowed s rfl rfl rfl
  rcases soundStrobes_cases s.st with ⟨hst, he⟩ | ⟨hst, he⟩ | ⟨hst, he⟩
  · exact ⟨fun _ => congrArg (· ++ s.outputs) he, by omega, by omega, hframe⟩
  · exact ⟨by omega, fun _ => congrArg (· ++ s.outputs) he, by omega, hframe⟩
  · exact ⟨by omega, by omega, fun _ => congrArg (· ++ s.outputs) he, hframe⟩

/-! ### Ticks in a row (R223) -/

theorem count_beepAccumulate_soundStrobes (st : Byte) :
    (soundStrobes st).count .beepAccumulate = min 1 st.toNat := by
  rcases soundStrobes_cases st with ⟨hst, he⟩ | ⟨hst, he⟩ | ⟨hst, he⟩
  · rw [he, hst]; rfl
  · rw [he, hst]; rfl
  · rw [he, min_eq_left hst.le]; rfl

theorem count_beepFlush_soundStrobes (st : Byte) :
    (soundStrobes st).count .beepFlush = if st.toNat = 1 then 1 else 0 := by
  rcases soundStrobes_cases st with ⟨hst, he⟩ | ⟨hst, he⟩ | ⟨hst, he⟩
  · rw [he, hst]; rfl
  · rw [he, hst]; rfl
  · rw [he, if_neg hst.ne']; rfl

theorem beep_of_mem_soundStrobes {st : Byte} {o : Output} (ho : o ∈ soundStrobes st) :
    o = .beepAccumulate ∨ o = .beepFlush := by
  rcases soundStrobes_cases st with ⟨-, he⟩ | ⟨-, he⟩ | ⟨-, he⟩
  · simp [he] at ho
  · simpa [he, or_comm] using ho
  · exact .inl (by simpa [he] using ho)

/-- Settles O46, by induction on the number of ticks: the first tick sends its own strobes and lowers ST by one, and the
other n send what n ticks send from there. -/
theorem timerTicksInARow : Obligations.TimerTicksInARow := by
  intro n
  induction n with
  | zero => exact fun s => ⟨s, [], rfl, rfl, rfl, rfl, by simp, (if_neg (by omega)).symm, nofun, Frame.refl _ s⟩
  | succ n ih =>
    intro s
    obtain ⟨t, new, hrun, hdt, hst, hout, hacc, hflush, hbeeps, hframe⟩ := ih (timerTick s)
    simp only [timerTick_dt, timerTick_st, toNat_countDown] at hdt hst hacc hflush
    refine ⟨t, new ++ soundStrobes s.st, hrun, by omega, by omega, ?_, ?_, ?_, fun o ho => ?_,
      (frame_timerTick_of_allowed s rfl rfl rfl).trans hframe⟩
    · rw [hout, timerTick_outputs, List.append_assoc]
    · rw [List.count_append, hacc, count_beepAccumulate_soundStrobes]
      omega
    · rw [List.count_append, hflush, count_beepFlush_soundStrobes]
      split_ifs <;> omega
    · exact (List.mem_append.1 ho).elim (hbeeps o) beep_of_mem_soundStrobes

/-! ### Render-consume (R232) -/

theorem renderConsume_of_changed {s : State} (h : s.changed = true) :
    renderConsume s = { s.emit (.frame s.disp) with changed := false } :=
  if_pos h

theorem renderConsume_of_unchanged {s : State} (h : s.changed = false) : renderConsume s = s :=
  if_neg (by simp [h])

/-- Settles O47: the frame taken is the one before CHANGED is cleared. -/
theorem renderConsumeResult : Obligations.RenderConsumeResult :=
  ⟨fun s h => ⟨{ s.emit (.frame s.disp) with changed := false },
      congrArg Host.Outcome.next (renderConsume_of_changed h), rfl, rfl,
      { Frame.refl _ s with changed := nofun, outputs := nofun }⟩,
    fun _ h => congrArg Host.Outcome.next (renderConsume_of_unchanged h)⟩

/-! ### A halted core (R213, R215, R237) -/

theorem loadProgram_of_too_long {blob : List Byte} (h : 3584 < blob.length) (s : State) :
    loadProgram blob s = s.emit .loadError :=
  if_pos h

/-- The frame from the state whose operation was taken from the schedule, as one from the state before. -/
theorem Frame.of_withSchedule {m : May} {s t : State} {rest : List HostOp}
    (h : Frame m { s with schedule := rest } t) : Frame { m with schedule := true } s t :=
  { h with schedule := nofun }

/-- Of a cycle() call, a core that is not enabled takes the timestamps and the tick only. -/
theorem cycleCall_frame_of_not_enabled (now : Nat) {s : State} (h : s.halted = true ∨ s.waiting = true) :
    ∃ t, cycleCall now s = .next t ∧ Frame eventMay s t := by
  rcases instrGate_cases now s with ⟨-, -, hg⟩ | ⟨-, hg⟩
  · have hblocked : instrStep { s with tInstr := now } = .next { s with tInstr := now } :=
      instrStep_of_not_enabled h
    exact ⟨_, cycleCall_of_next (by rw [hg]; exact hblocked),
      (frame_withTInstr now s).trans (frame_cycleTimer now _)⟩
  · exact ⟨_, cycleCall_of_next (by rw [hg]; rfl), frame_cycleTimer now s⟩

section
variable {s : State} (hh : s.halted = true) (hw : s.waiting = false)
include hh hw

/-- Only a reset or a load that fits reaches a halted core that is not waiting. -/
theorem hostStep_frame_of_halted {op : HostOp} (hreset : op ≠ .reset)
    (hload : ∀ blob, op = .load blob → 3584 < blob.length) :
    ∃ t, hostStep op s = .next t ∧ Frame eventMay s t := by
  cases op with
  | instrStrobe => exact ⟨s, instrStep_of_not_enabled (.inl hh), Frame.refl _ s⟩
  | timerStrobe => exact ⟨_, rfl, frame_timerTick s⟩
  | keyEvent key pressed => exact ⟨_, rfl, frame_keyEvent (.inr (.inl hw))⟩
  | renderConsume => exact ⟨_, rfl, frame_renderConsume s⟩
  | increaseRate => exact ⟨_, rfl, frame_increaseRate s⟩
  | decreaseRate => exact ⟨_, rfl, frame_decreaseRate s⟩
  | reset => exact absurd rfl hreset
  | load blob =>
    exact ⟨_, congrArg Host.Outcome.next (loadProgram_of_too_long (hload blob rfl) s), frame_emit s _ rfl⟩
  | cycle now => exact cycleCall_frame_of_not_enabled now (.inl hh)

theorem step_frame_of_halted (hreset : ∀ rest, s.schedule ≠ .reset :: rest)
    (hload : ∀ blob rest, s.schedule = .load blob :: rest → 3584 < blob.length) :
    ∃ t, step s = .next t ∧ Frame { eventMay with schedule := true } s t := by
  rcases step_cases s with ⟨-, he⟩ | ⟨op, rest, hs, he⟩
  · exact ⟨s, he.trans (instrStep_of_not_enabled (.inl hh)), Frame.refl _ s⟩
  · obtain ⟨t, ht, hframe⟩ := hostStep_frame_of_halted (s := { s with schedule := rest }) hh hw (op := op)
      (fun h => hreset rest (h ▸ hs)) (fun blob h => hload blob rest (h ▸ hs))
    exact ⟨t, he.trans ht, hframe.of_withSchedule⟩

end

/-- Settles O58: the frame of a halted core's step leaves HALTED with the fault registers. -/
theorem haltedIsFrozen : Obligations.HaltedIsFrozen := by
  intro s t hh hw hst hreset hload
  obtain ⟨u, hu, hframe⟩ := step_frame_of_halted hh hw hreset hload
  cases hst.symm.trans hu
  exact ⟨(hframe.fault rfl).1.trans hh, hframe⟩

end Sys2Proof.Machine
end

section
/-!
Reset, load and the gate (70_reset_and_hazards.md R250, R254, R265 to R268): what a reset leaves, what a load puts on
top of it, how a rate change moves RATE, and that a cycle() call is its two gated halves.
-/

namespace Sys2Proof.Machine

/-! ### The cycle() call (R265 to R267) -/

/-- An instruction strobe leaves the gate alone (10_state.md R29). -/
theorem instrStep_keeps_gate (s : State) :
    ∃ t, instrStep s = .next t ∧ t.rate = s.rate ∧ t.tInstr = s.tInstr ∧ t.tTimer = s.tTimer := by
  rcases instrStep_cases s with ⟨-, he⟩ | ⟨-, -, -, he⟩ | ⟨-, -, -, he⟩
  · exact ⟨s, he, rfl, rfl, rfl⟩
  · exact ⟨_, he, rfl, rfl, rfl⟩
  · rcases execWord_cases (s.wordAt s.pc.toNat) { s with pc := s.pc + 2 } with ⟨i, -, hx⟩ | ⟨_, -, hx⟩
    · obtain ⟨t, ht, hframe⟩ := exec_frame i { s with pc := s.pc + 2 }
      exact ⟨t, he.trans (hx.trans ht), hframe.gate mayWrite_gate⟩
    · exact ⟨_, he.trans hx, rfl, rfl, rfl⟩

/-- The timer half of a cycle() call from u, told by the timestamp of a state s that u has kept (R267). -/
theorem cycleTimer_gated (now : Nat) {s u : State} (h : u.tTimer = s.tTimer) :
    (((now : Int) - s.tTimer) * 60 ≥ 1000 →
      hostStep .timerStrobe { u with tTimer := now } = .next (u.cycleTimer now)) ∧
    (¬ ((now : Int) - s.tTimer) * 60 ≥ 1000 → u.cycleTimer now = u) := by
  rw [← h]
  rcases cycleTimer_cases now u with ⟨hfires, he⟩ | ⟨hblocked, he⟩
  · exact ⟨fun _ => congrArg Host.Outcome.next he.symm, fun hno => absurd hfires hno⟩
  · exact ⟨fun hfires => absurd hfires hblocked, fun _ => he⟩

/-- Settles O49: by whether the instruction gate fires; the strobe it lets through leaves the timer gate's timestamp, so
the second gate compares with the one the call found. -/
theorem cycleCallIsGated : Obligations.CycleCallIsGated := by
  intro now s
  rcases instrGate_cases now s with ⟨hrate, helapsed, hg⟩ | ⟨hblocked, hg⟩
  · obtain ⟨u, hu, -, -, htimer⟩ := instrStep_keeps_gate { s with tInstr := now }
    exact ⟨u, u.cycleTimer now, cycleCall_of_next (by rw [hg]; exact hu), fun _ => hu,
      fun hno => absurd ⟨hrate, helapsed⟩ hno, cycleTimer_gated now htimer⟩
  · exact ⟨s, s.cycleTimer now, cycleCall_of_next (by rw [hg]; rfl), fun hfires => absurd hfires hblocked,
      fun _ => rfl, cycleTimer_gated now rfl⟩

/-! ### Load (R254) -/

theorem loadProgram_of_fits {blob : List Byte} (h : blob.length ≤ 3584) (s : State) :
    loadProgram blob s = (s.doReset.writeBytes 0x200 blob).emit .loadOk :=
  if_neg (Nat.not_lt.2 h)

/-- Settles O51: a blob that fits is written over the reset memory, which is in canonical form; a longer one is
answered only. -/
theorem loadResult : Obligations.LoadResult := by
  refine ⟨fun blob s hfits => ?_, fun blob s hlong => ?_⟩
  · have hframe : Frame { bytes := (List.range blob.length).map (fun k => 0x200 + k), outputs := true } s.doReset
        ((s.doReset.writeBytes 0x200 blob).emit .loadOk) :=
      (frame_writeBytes _ _ _ fun _ hk => List.mem_map_of_mem (List.mem_range.2 hk)).trans (frame_emit _ _ rfl)
    exact ⟨s.doReset, _, rfl, congrArg Host.Outcome.next (loadProgram_of_fits hfits s),
      fun _ hk => State.readByte_writeBytes_inside State.reset_mem_wf hk,
      fun _ ha => State.readByte_writeBytes_other _ ha, rfl, hframe⟩
  · exact ⟨s.emit .loadError, congrArg Host.Outcome.next (loadProgram_of_too_long hlong s), rfl,
      frame_emit s _ rfl⟩

/-! ### Rate changes (R268) -/

theorem frame_withRate {m : May} (s : State) (rate : Nat) (hm : m.gate = true) : Frame m s { s with rate := rate } :=
  { Frame.refl m s with gate := by simp [hm] }

theorem increaseRate_rate (s : State) :
    (increaseRate s).rate = capRate Config.rateMax (s.rate + Config.rateStep) := rfl

/-- Settles O48: each writes RATE only; the ceiling is by whether there is a RATE_MAX. -/
theorem rateChangeResult : Obligations.RateChangeResult := by
  refine ⟨fun s => ⟨decreaseRate s, rfl, rfl, rfl, rfl, frame_withRate s _ rfl⟩,
    fun s => ⟨increaseRate s, rfl, fun m hmax => ?_, fun hmax => ?_, rfl, rfl, frame_withRate s _ rfl⟩⟩
  · rw [increaseRate_rate, hmax, capRate]
  · rw [increaseRate_rate, hmax, capRate]

/-! ### Reset (R250) -/

/-- After reset an address reads as the font, which stands at 0, and as zero beyond it (20_memory.md R41, R47). -/
theorem State.readByte_doReset (s : State) (a : Nat) : s.doReset.readByte a = fontData.getD a 0 := by
  simp [State.readByte, State.reset, Memory.read, initialByte]

theorem length_fontData : fontData.length = 80 := rfl

/-- Settles O50: memory by what an unlisted address reads as, every other element by its reset value. -/
theorem resetResult : Obligations.ResetResult := by
  intro s
  have hzero (a : Nat) (ha : 80 ≤ a) : s.doReset.readByte a = 0 := by
    rw [State.readByte_doReset, List.getD_eq_default _ _ (length_fontData ▸ ha)]
  have hfont : s.doReset.readBytes 0 80 = fontData := by
    refine List.ext_getElem (length_readBytes ..) fun k _ hk => ?_
    rw [getElem_readBytes, Nat.zero_add, State.readByte_doReset, List.getD_eq_getElem _ _ hk]
  have hregs (k : Reg) : s.doReset.getV k = 0 := by simp [State.getV, State.reset]
  have hkeys (k : Fin 16) : s.doReset.key k = false := by simp [State.key, State.reset]
  exact ⟨s.doReset, rfl, hzero, hfont, hregs, rfl, rfl, rfl, Display.pixel_blank, rfl, hkeys, rfl, rfl, rfl, rfl, rfl,
    rfl, rfl⟩

theorem State.doReset_reset : State.reset.doReset = State.reset := rfl

/-- Settles O54: State.reset is what a reset leaves of itself, and a reset leaves the invariant from any state. -/
theorem invariantAtReset : Obligations.InvariantAtReset :=
  (State.doReset_reset ▸ inv_doReset State.reset : Inv State.reset)

end Sys2Proof.Machine
end
